-- ==== Sys2Proof/Word.lean ====
section
/-! DEFINITION. The two widths the spec names throughout: a byte of a buffer or frame, and the 32-bit value of a
remote register (spec/00_scope.md R5, R6). -/

namespace Sys2Proof

/-- One byte of a buffer, payload or wire frame (R7). -/
abbrev Byte := BitVec 8

/-- A remote register value, 32 bits (R5). -/
abbrev Word := BitVec 32

end Sys2Proof
end

