-- ==== Sys2Proof/Config.lean ====
section
/-! DEFINITION. What is fixed for this hardware (spec/00_scope.md R5), and the parameters of the HOST the spec leaves
open (spec/92_eei_decisions.md D20 to D22). The block itself has no open parameter, so there is no free value. -/

namespace Sys2Proof.Config

/-- IBUF_CAP, the bytes of IBUF (R5, R20). -/
abbrev ibufCap : Nat := 16

/-- OBUF_CAP, the bytes of OBUF (R5, R20). -/
abbrev obufCap : Nat := 10

/-- MAXPAY, the largest payload STUFF accepts (R5, R70). -/
abbrev maxPay : Nat := 8

/-- RD_WIRE, the bytes of an encoded read request (R5). -/
abbrev rdWire : Nat := 5

/-- WR_WIRE, the bytes of an encoded write request and of a response (R5). -/
abbrev wrWire : Nat := 10

/-- RETRY_BUDGET, the attempts of the host session (R5, R104, R105). -/
abbrev retryBudget : Nat := 5

end Sys2Proof.Config

namespace Sys2Proof

/-- The open parameters of the host session. Every procedure of Machine/Session.lean takes them as an argument, so a
claim holds for all their values (R5 "OPEN means the model takes the named parameter as an argument"). -/
structure LinkParams where
  /-- REQ_SYNC (D20). -/
  reqSync : Byte
  /-- RESP_SYNC (D20). -/
  respSync : Byte
  /-- RESP_ADDR (D20). -/
  respAddr : Byte
  /-- IFCNT_ADDR, 0 to 127 (D20). -/
  ifcntAddr : BitVec 7
  /-- RESP_WBIT (D22); the spec's default is 0. -/
  respWbit : BitVec 1
  /-- DEBUG_READ_VALUE (D21). -/
  debugReadValue : Word
deriving DecidableEq, Repr

end Sys2Proof
end

