-- ==== Sys2Proof/Machine/Bytes.lean ====
section
/-! DEFINITION. Byte sequences and the integers they spell (spec/00_scope.md R6, R7). -/

namespace Sys2Proof

/-- `int_le(s)`: the integer whose bits 8i+7 to 8i are byte i of s (R7). -/
def intLe : List Byte → Nat
  | [] => 0
  | b :: bs => b.toNat + intLe bs * 256

/-- `bytes_le(v, n)`: n bytes, byte i equal to `(v >> (8*i)) & 0xFF` (R7). -/
def bytesLe (v n : Nat) : List Byte :=
  (List.range n).map fun i => BitVec.ofNat 8 (v >>> (8 * i))

/-- `v[hi:lo]`, `(v >> lo) mod 2^(hi-lo+1)` (R6). -/
def bitField (v hi lo : Nat) : Nat :=
  (v >>> lo) % 2 ^ (hi - lo + 1)

/-- The four bytes of a 32-bit value in the order val[31:24], val[23:16], val[15:8], val[7:0] (R35, R54). -/
def valueBytes (v : Word) : List Byte :=
  [(v >>> 24).setWidth 8, (v >>> 16).setWidth 8, (v >>> 8).setWidth 8, v.setWidth 8]

/-- The bits of wire bytes in the order of time: wire byte 0 first, and in each byte bit 0 first (R37). No operation
of the block depends on it. -/
def wireBits (w : List Byte) : List Bool :=
  w.flatMap fun b => (List.range 8).map fun i => b.getLsbD i

end Sys2Proof
end

