-- ==== Sys2Proof/Syntax.lean ====
section
/-! DEFINITION. One constructor per row of spec/opcode_table.json (spec/30_encoding.md R44, R51, R53, R60). -/

namespace Sys2Proof

/-- The seven operations and the reserved code (format CMD3: a 3-bit code and no operand field, R44), and the three
frame formats (W40 and W80), whose fields are the letters of the table's encoding strings. -/
inductive Instr where
  /-- Command code 0b000 (R64). -/
  | crc8
  /-- Command code 0b001 (R70). -/
  | stuff
  /-- Command code 0b010 (R72). -/
  | encrd
  /-- Command code 0b011 (R74). -/
  | encwr
  /-- Command code 0b100 (R77). -/
  | decrd
  /-- Command code 0b101 (R84). -/
  | quant
  /-- Command code 0b110 (R85). -/
  | qsel
  /-- Command code 0b111, reserved (R56 (a)). -/
  | reserved111
  /-- Format W40, a read request: sync byte s, node address a, register address r, CRC byte c (R51). -/
  | frameReadRequest (sync addr : Byte) (reg : BitVec 7) (crc : Byte)
  /-- Format W80 with the write bit set, a write request; `value` is the bytes w, x, y, z, most significant first
  (R53, R54). -/
  | frameWriteRequest (sync addr : Byte) (reg : BitVec 7) (value : Word) (crc : Byte)
  /-- Format W80, a read response; `ereg` is the whole register byte e (R53). -/
  | frameReadResponse (sync addr ereg : Byte) (value : Word) (crc : Byte)
deriving DecidableEq, Repr

end Sys2Proof
end

