-- ==== Sys2Proof/WellFormed.lean ====
section
/-! DEFINITION. Which terms of Instr are the reading of some word. Field widths are in the types; one check is left. -/

namespace Sys2Proof

/-- An 80-bit frame whose bit 28 (bit 7 of the register byte) is 1 is written FRAME_WRITE_REQUEST; the same bits
spelt as a FRAME_READ_RESPONSE would be a second name of one word (R53: the write-request row is the response row with
bit 28 fixed). DESIGN CHOICE, log entry 5. Every other field takes every value its width admits. -/
def Instr.wellFormed : Instr → Bool
  | .crc8 => true
  | .stuff => true
  | .encrd => true
  | .encwr => true
  | .decrd => true
  | .quant => true
  | .qsel => true
  | .reserved111 => true
  | .frameReadRequest _ _ _ _ => true
  | .frameWriteRequest _ _ _ _ _ => true
  | .frameReadResponse _ _ ereg _ _ => !ereg.getLsbD 7

end Sys2Proof
end

