-- ==== Sys2Proof/Decode.lean ====
section
/-! DEFINITION. From words to instructions and back (spec/30_encoding.md R44, R45, R51, R53, R60). A word is the
sequence of its bytes, byte i being bits 8i+7 to 8i, which is the frames' own byte order (R34); a command code, which
the command port takes as three bits, is one byte with bits 7 to 3 zero (DESIGN CHOICE, log entry 2). -/

namespace Sys2Proof

/-- Why a word is no instruction. -/
inductive DecodeError where
  /-- No row of the table is this many bytes long. -/
  | wrongLength (bytes : Nat)
  /-- A one-byte word with a bit above the 3-bit code set: the command port has no such line (R44). -/
  | codeBits (word : Byte)
  /-- A start bit is 1 or a stop bit is 0 (R51, R53). -/
  | framing (bits : Nat)
  /-- A 40-bit frame with bit 28 set: a read request has the write bit clear (R51, R52). -/
  | writeBit (bits : Nat)
deriving DecidableEq, Repr

/-- R44's table. -/
def decodeCommand (b : Byte) : Except DecodeError Instr :=
  match b.toNat with
  | 0 => .ok .crc8
  | 1 => .ok .stuff
  | 2 => .ok .encrd
  | 3 => .ok .encwr
  | 4 => .ok .decrd
  | 5 => .ok .quant
  | 6 => .ok .qsel
  | 7 => .ok .reserved111
  | _ => .error (.codeBits b)

/-- R51's start and stop bits (its mask without bit 28), then the write bit, then the fields. -/
def decodeW40 (v : BitVec 40) : Except DecodeError Instr :=
  if v &&& 0x8060180601#40 ≠ 0x8020080200#40 then .error (.framing v.toNat)
  else if v.getLsbD 28 then .error (.writeBit v.toNat)
  else .ok (.frameReadRequest (v.extractLsb' 1 8) (v.extractLsb' 11 8) (v.extractLsb' 21 7) (v.extractLsb' 31 8))

/-- The value of a W80 frame: the bytes at bits 31, 41, 51 and 61, most significant first (R54). -/
def w80Value (v : BitVec 80) : Word :=
  v.extractLsb' 31 8 ++ v.extractLsb' 41 8 ++ v.extractLsb' 51 8 ++ v.extractLsb' 61 8

/-- R53's start and stop bits, then bit 28 tells a write request from a response (log entry 5). -/
def decodeW80 (v : BitVec 80) : Except DecodeError Instr :=
  if v &&& 0x80601806018060180601#80 ≠ 0x80200802008020080200#80 then .error (.framing v.toNat)
  else if v.getLsbD 28 then
    .ok (.frameWriteRequest (v.extractLsb' 1 8) (v.extractLsb' 11 8) (v.extractLsb' 21 7) (w80Value v)
      (v.extractLsb' 71 8))
  else
    .ok (.frameReadResponse (v.extractLsb' 1 8) (v.extractLsb' 11 8) (v.extractLsb' 21 8) (w80Value v)
      (v.extractLsb' 71 8))

/-- The instruction a word's bytes spell: commands are 1 byte, read requests 5, write requests and responses 10
(R45, R57). Total: every other word is refused by name. -/
def decodeBytes (word : List Byte) : Except DecodeError Instr :=
  match word.length with
  | 1 => decodeCommand (word.headD 0)
  | 5 => decodeW40 (BitVec.ofNat 40 (intLe word))
  | 10 => decodeW80 (BitVec.ofNat 80 (intLe word))
  | n => .error (.wrongLength n)

/-- The bytes of the word numbered as spec/opcode_table.json numbers it: bit 0 is the least significant bit of the
first byte; bits above `nbits` are left out. -/
def tableWordBytes (nbits w : Nat) : List Byte :=
  bytesLe w ((nbits + 7) / 8)

/-- What the decoder reads from a word of the opcode table. -/
def decodeTableWord (nbits w : Nat) : Option Instr :=
  (decodeBytes (tableWordBytes nbits w)).toOption

/-- R51's layout, bit 39 first: `1cccccccc0 10rrrrrrr0 1aaaaaaaa0 1ssssssss0`. -/
def w40Word (s a : Byte) (r : BitVec 7) (c : Byte) : BitVec 40 :=
  (1#1 ++ c ++ 0#1) ++ (1#1 ++ (0#1 ++ r) ++ 0#1) ++ (1#1 ++ a ++ 0#1) ++ (1#1 ++ s ++ 0#1)

/-- R53's layout, bit 79 first:
`1cccccccc0 1zzzzzzzz0 1yyyyyyyy0 1xxxxxxxx0 1wwwwwwww0 1eeeeeeee0 1aaaaaaaa0 1ssssssss0`, with w, x, y, z the bytes
of the value from the most significant down. -/
def w80Word (s a e : Byte) (v : Word) (c : Byte) : BitVec 80 :=
  (1#1 ++ c ++ 0#1) ++ (1#1 ++ v.extractLsb' 0 8 ++ 0#1) ++ (1#1 ++ v.extractLsb' 8 8 ++ 0#1) ++
    (1#1 ++ v.extractLsb' 16 8 ++ 0#1) ++ (1#1 ++ v.extractLsb' 24 8 ++ 0#1) ++ (1#1 ++ e ++ 0#1) ++
    (1#1 ++ a ++ 0#1) ++ (1#1 ++ s ++ 0#1)

/-- The word of an instruction, from the encoding column of the opcode table. -/
def encode : Instr → List Byte
  | .crc8 => [0b000#8]
  | .stuff => [0b001#8]
  | .encrd => [0b010#8]
  | .encwr => [0b011#8]
  | .decrd => [0b100#8]
  | .quant => [0b101#8]
  | .qsel => [0b110#8]
  | .reserved111 => [0b111#8]
  | .frameReadRequest s a r c => bytesLe (w40Word s a r c).toNat 5
  | .frameWriteRequest s a r v c => bytesLe (w80Word s a (1#1 ++ r) v c).toNat 10
  | .frameReadResponse s a e v c => bytesLe (w80Word s a e v c).toNat 10

end Sys2Proof
end

