-- ==== Sys2Proof/Machine/State.lean ====
section
/-! DEFINITION. All the state spec/10_state.md gives the block (R11, R12, R20), the host's pending moves (R103), the
reasons a step can stop, and the state after reset (R25, R113). -/

namespace Sys2Proof.Machine

/-- A buffer's contents: (index, byte) pairs in one canonical form, indices strictly rising and no byte 0, since an
index that is not listed reads 0, the reset contents of both buffers (R25). The form is `Memory.wf`, in Ops.lean. -/
abbrev Memory := List Host.Cell

/-- The two address spaces, private to the block and apart from each other (R28). -/
inductive Space where
  | ibuf
  | obuf
deriving DecidableEq, Repr

/-- The four result conditions (R91). -/
inductive Condition where
  | noValue
  | illegalOp
  | illegalOperand
  | preconditionViolation
deriving DecidableEq, Repr

/-- A host write to one operand register (R11, R23). A result register has no write port. -/
inductive PortWrite where
  | sync (v : Byte)
  | addr (v : Byte)
  | reg (v : BitVec 7)
  | ereg (v : Byte)
  | wval (v : Word)
  | ilen (v : BitVec 5)
  | irun (v : BitVec 16)
  | ihold (v : BitVec 16)
  | rsense (v : BitVec 16)
  | hsin (v : BitVec 1)
deriving DecidableEq, Repr

/-- What the host can read: every register and every buffer byte (R23, R103). -/
inductive ReadPort where
  | sync
  | addr
  | reg
  | ereg
  | wval
  | ilen
  | irun
  | ihold
  | rsense
  | hsin
  | crc
  | olen
  | rval
  | rvalid
  | qrun
  | qhold
  | qhs
  | err
  | ibuf (index : Nat)
  | obuf (index : Nat)
deriving DecidableEq, Repr

/-- One move of the host between two operations (R103; the script lines of R58). -/
inductive HostMove where
  /-- `WR <register>, <value>`. -/
  | write (w : PortWrite)
  /-- A write of one byte of IBUF (R30: byte by byte, in any order). -/
  | writeByte (index : Nat) (b : Byte)
  /-- `WRB b0 … b(n-1)`: the bytes into IBUF[0..n-1] and n into ILEN (R58; received bytes, R30). -/
  | writeBytes (bytes : List Byte)
  /-- A read of a register or buffer byte; it changes nothing (R31). -/
  | read (p : ReadPort)
  /-- A word presented as a command (R44), or a frame row's word (log entry 3). -/
  | issue (word : List Byte)
  /-- The bytes OBUF[0..OLEN-1] handed to the byte transport for sending (R103). -/
  | send
  /-- The block's one reset (R113). -/
  | reset
deriving DecidableEq, Repr

/-- The block's registers and buffers, the moves the host is about to make, and what it has handed to the transport. -/
structure State where
  /-- SYNC, operand (R11). -/
  sync : Byte
  /-- ADDR, operand (R11). -/
  addr : Byte
  /-- REG, operand (R11). -/
  reg : BitVec 7
  /-- EREG, operand (R11). -/
  ereg : Byte
  /-- WVAL, operand (R11). -/
  wval : Word
  /-- ILEN, operand (R11, R20). -/
  ilen : BitVec 5
  /-- IRUN, operand, milliamperes (R11). -/
  irun : BitVec 16
  /-- IHOLD, operand, milliamperes (R11). -/
  ihold : BitVec 16
  /-- RSENSE, operand, milliohms (R11). -/
  rsense : BitVec 16
  /-- HSIN, operand: 0 low sensitivity, 1 high (R11). -/
  hsin : BitVec 1
  /-- CRC, result (R12). -/
  crc : Byte
  /-- OLEN, result (R12, R20). -/
  olen : BitVec 4
  /-- RVAL, result (R12). -/
  rval : Word
  /-- RVALID, flag (R15). -/
  rvalid : BitVec 1
  /-- QRUN, result (R12). -/
  qrun : BitVec 5
  /-- QHOLD, result (R12). -/
  qhold : BitVec 5
  /-- QHS, flag (R16). -/
  qhs : BitVec 1
  /-- ERR, status (R17). -/
  err : BitVec 3
  /-- IBUF, 16 bytes (R20, R28). -/
  ibuf : Memory
  /-- OBUF, 10 bytes (R20, R28). -/
  obuf : Memory
  /-- The host's next moves, first one first: the model's own field (DESIGN CHOICE, log entry 1). -/
  pending : List HostMove
  /-- The byte sequences handed to the byte transport, oldest first: the model's own field (DESIGN CHOICE, log
  entry 19). -/
  sent : List (List Byte)
deriving DecidableEq, Repr

/-- Why the machine stops. No instruction raises a fault. -/
inductive Fault where
  /-- Raised by a host move that names a buffer byte that does not exist: IBUF has indices 0 to 15, OBUF 0 to 9, and
  nothing else is addressable (R28). Safe: the hardware has no port for the access. -/
  | noSuchByte (space : Space) (index : Nat)
deriving DecidableEq, Repr

/-- Why a step has no meaning. -/
inductive Refusal where
  /-- Raised by an arm of `exec` that has no meaning yet; no arm is left so. Safe. -/
  | notModelled (mnemonic : String)
  /-- Raised by the host's `issue` of a word that is no row of the opcode table. Safe: the 3-bit command port cannot
  carry it and no frame format has it (R44, R51, R53). -/
  | undecodable (why : DecodeError)
deriving DecidableEq, Repr

/-- Every register and every buffer byte is zero (R25, R113); the host has no move pending (log entry 1) and has
sent nothing (log entry 19). -/
def State.reset : State where
  sync := 0
  addr := 0
  reg := 0
  ereg := 0
  wval := 0
  ilen := 0
  irun := 0
  ihold := 0
  rsense := 0
  hsin := 0
  crc := 0
  olen := 0
  rval := 0
  rvalid := 0
  qrun := 0
  qhold := 0
  qhs := 0
  err := 0
  ibuf := []
  obuf := []
  pending := []
  sent := []

end Sys2Proof.Machine
end

