-- ==== Sys2Proof/Machine/Flags.lean ====
section
/-! DEFINITION. The status register ERR and the flags RVALID and QHS (spec/10_state.md R15 to R17,
spec/60_exceptions.md R91). -/

namespace Sys2Proof.Machine

/-- The value a condition writes to ERR (R17, R91). -/
def Condition.code : Condition → BitVec 3
  | .noValue => 1
  | .illegalOp => 2
  | .illegalOperand => 3
  | .preconditionViolation => 4

/-- The normal end of an operation: ERR <- 0 (R8, R17). -/
def State.done (s : State) : State := { s with err := 0 }

/-- An accepted response: RVAL <- the value, RVALID <- 1 (R15, R77). -/
def State.acceptValue (v : Word) (s : State) : State := { s with rval := v, rvalid := 1 }

/-- The mode the codes were computed with: QHS <- hs (R16). -/
def State.setQhs (hs : BitVec 1) (s : State) : State := { s with qhs := hs }

end Sys2Proof.Machine
end

