-- ==== Sys2Proof/Machine/Ops.lean ====
section
/-! DEFINITION. The operations every meaning is written over: the two buffers (spec/00_scope.md R8, spec/20_memory.md
R28 to R31), and ending an operation with a result condition (spec/60_exceptions.md R92). -/

namespace Sys2Proof.Machine

/-- The canonical form: indices strictly rising, no byte 0. -/
def Memory.wf : Memory → Bool
  | [] => true
  | (i, b) :: m => b != 0 && m.all (fun c => decide (i < c.1)) && Memory.wf m

/-- Every listed index is below the buffer's capacity (R28). -/
def Memory.within (cap : Nat) (m : Memory) : Bool :=
  m.all fun c => decide (c.1 < cap)

/-- The byte at an index; an unlisted index reads 0 (R25). -/
def Memory.read : Memory → Nat → Byte
  | [], _ => 0
  | (i, b) :: m, k => if k = i then b else Memory.read m k

/-- A byte put in front of the listed ones, unless it is what an unlisted index reads as. -/
def Memory.cons (k : Nat) (b : Byte) (m : Memory) : Memory :=
  if b = 0 then m else (k, b) :: m

/-- One byte written; the form stays canonical. -/
def Memory.write : Memory → Nat → Byte → Memory
  | [], k, b => Memory.cons k b []
  | (i, c) :: m, k, b =>
    if k < i then Memory.cons k b ((i, c) :: m)
    else if k = i then Memory.cons k b m
    else (i, c) :: Memory.write m k b

/-- `MemRead(SPACE, i, n)`: n consecutive bytes from index i (R8). -/
def Memory.readSeq (m : Memory) (i n : Nat) : List Byte :=
  (List.range n).map fun k => m.read (i + k)

/-- `MemWrite(SPACE, i, n, s)`: the bytes of s from index i (R8). -/
def Memory.writeSeq : Memory → Nat → List Byte → Memory
  | m, _, [] => m
  | m, i, b :: s => Memory.writeSeq (m.write i b) (i + 1) s

/-- The bytes of OBUF after a result sequence w: w, then 0x00 up to OBUF[9] (R20, R29). -/
def resultBytes (w : List Byte) : List Byte :=
  w ++ List.replicate (Config.obufCap - w.length) 0

/-- A result sequence: OBUF[0..n-1] <- w, OBUF[n..9] <- 0x00, OLEN <- n (R29). -/
def State.putResult (w : List Byte) (s : State) : State :=
  { s with obuf := s.obuf.writeSeq 0 (resultBytes w), olen := BitVec.ofNat 4 w.length }

/-- `raise C`: all there is of taking an exception (R92). The operation ends; ERR <- the code of C; NoValue also writes
RVALID <- 0 and RVAL <- 0; nothing else changes. No state is saved and control goes nowhere, so there is no return
operation beside it (R99): the next command is performed from the state left here. -/
def raise (c : Condition) (s : State) : State :=
  match c with
  | .noValue => { s with rvalid := 0, rval := 0, err := c.code }
  | .illegalOp => { s with err := c.code }
  | .illegalOperand => { s with err := c.code }
  | .preconditionViolation => { s with err := c.code }

end Sys2Proof.Machine
end

