-- ==== Sys2Proof/Machine/Operands.lean ====
section
/-! DEFINITION. Where an operation's operands come from, and the host's ports (spec/10_state.md R11, R23,
spec/20_memory.md R29, spec/30_encoding.md R52). -/

namespace Sys2Proof.Machine

/-- The input sequence: the first ILEN bytes of IBUF (R29). Its users test ILEN first. -/
def State.inputSeq (s : State) : List Byte :=
  s.ibuf.readSeq 0 s.ilen.toNat

/-- The result sequence: the first OLEN bytes of OBUF (R29). -/
def State.resultSeq (s : State) : List Byte :=
  s.obuf.readSeq 0 s.olen.toNat

/-- The register byte of a read request: the 7-bit address, write bit 0 (R52, R72). -/
def readRegByte (reg : BitVec 7) : Byte := reg.setWidth 8

/-- The register byte of a write request: the 7-bit address with bit 7 set (R52, R74). -/
def writeRegByte (reg : BitVec 7) : Byte := reg.setWidth 8 ||| 0x80

/-- `x[NAME] <- v` by the host (R8, R23). -/
def State.portWrite (w : PortWrite) (s : State) : State :=
  match w with
  | .sync v => { s with sync := v }
  | .addr v => { s with addr := v }
  | .reg v => { s with reg := v }
  | .ereg v => { s with ereg := v }
  | .wval v => { s with wval := v }
  | .ilen v => { s with ilen := v }
  | .irun v => { s with irun := v }
  | .ihold v => { s with ihold := v }
  | .rsense v => { s with rsense := v }
  | .hsin v => { s with hsin := v }

/-- What a host read gives, as an unsigned value (R6, R8, R23). -/
def State.portRead (p : ReadPort) (s : State) : Word :=
  match p with
  | .sync => s.sync.setWidth 32
  | .addr => s.addr.setWidth 32
  | .reg => s.reg.setWidth 32
  | .ereg => s.ereg.setWidth 32
  | .wval => s.wval
  | .ilen => s.ilen.setWidth 32
  | .irun => s.irun.setWidth 32
  | .ihold => s.ihold.setWidth 32
  | .rsense => s.rsense.setWidth 32
  | .hsin => s.hsin.setWidth 32
  | .crc => s.crc.setWidth 32
  | .olen => s.olen.setWidth 32
  | .rval => s.rval
  | .rvalid => s.rvalid.setWidth 32
  | .qrun => s.qrun.setWidth 32
  | .qhold => s.qhold.setWidth 32
  | .qhs => s.qhs.setWidth 32
  | .err => s.err.setWidth 32
  | .ibuf i => (s.ibuf.read i).setWidth 32
  | .obuf i => (s.obuf.read i).setWidth 32

/-- The port names something the block has: buffer indices are 0 to 15 and 0 to 9 (R28). -/
def ReadPort.missing : ReadPort → Option (Space × Nat)
  | .ibuf i => if i < Config.ibufCap then none else some (.ibuf, i)
  | .obuf i => if i < Config.obufCap then none else some (.obuf, i)
  | .sync | .addr | .reg | .ereg | .wval | .ilen | .irun | .ihold | .rsense | .hsin | .crc | .olen | .rval | .rvalid
  | .qrun | .qhold | .qhs | .err => none

/-- The bytes into IBUF from index 0 and their count into ILEN (R30, R58 `WRB`); at most 16 bytes. -/
def State.loadInput (bytes : List Byte) (s : State) : State :=
  { s with ibuf := s.ibuf.writeSeq 0 bytes, ilen := BitVec.ofNat 5 bytes.length }

/-- The result sequence handed to the byte transport for sending (R103). -/
def State.handOver (s : State) : State := { s with sent := s.sent ++ [s.resultSeq] }

end Sys2Proof.Machine
end

