-- ==== Sys2Proof/Machine/Crc.lean ====
section
/-! DEFINITION. The CRC-8 checksum and operation CRC8 (spec/40_crc.md). -/

namespace Sys2Proof.Machine

/-- One round of R63's inner loop: the top CRC bit xor the bit coming in says whether the polynomial 0x07 is applied
to the shifted register. -/
def crcBit (crc : Byte) (bit : Bool) : Byte :=
  if crc.getLsbD 7 ^^ bit then (crc <<< 1) ^^^ 0x07 else crc <<< 1

/-- n rounds over a byte, bit 0 first, the byte shifted right after each (R63). -/
def crcRounds : Nat → Byte → Byte → Byte
  | 0, crc, _ => crc
  | n + 1, crc, b => crcRounds n (crcBit crc (b.getLsbD 0)) (b >>> 1)

/-- The register after one more byte: eight rounds (R63). -/
def crcByte (crc b : Byte) : Byte := crcRounds 8 crc b

/-- `crc8(s)`: initial value 0, bytes in sequence order, no final exclusive-or (R63; the bit order is §4.3's,
90_conflicts.md C1). -/
def crc8 (s : List Byte) : Byte := s.foldl crcByte 0

/-- CRC8 (R64). -/
def execCrc8 (s : State) : Host.Outcome State Fault Refusal :=
  if s.ilen.toNat > Config.ibufCap then .next (raise .illegalOperand s)
  else .next { s with crc := crc8 s.inputSeq }.done

end Sys2Proof.Machine
end

