-- ==== Sys2Proof/Machine/Framing.lean ====
section
/-! DEFINITION. Bit stuffing, frame building and response decoding: operations STUFF, ENCRD, ENCWR, DECRD
(spec/41_framing.md). -/

namespace Sys2Proof.Machine

/-- `unit(d) = (d << 1) | 0x200`: start bit 0, the data, stop bit 1 (R46). -/
def unit (d : Byte) : Nat := (d.toNat <<< 1) ||| 0x200

/-- R69's loop: each unit is put at the bit position `pos`, which then advances by 10. -/
def stuffLoop : List Byte → Nat → Nat → Nat × Nat
  | [], out, pos => (out, pos)
  | d :: m, out, pos => stuffLoop m (out ||| (unit d <<< pos)) (pos + 10)

/-- The stream integer of a payload (R47). -/
def streamInt (m : List Byte) : Nat := (stuffLoop m 0 0).1

/-- `stuff(m)`: the wire bytes of a payload, `ceil(pos / 8)` of them (R69). -/
def stuff (m : List Byte) : List Byte :=
  let r := stuffLoop m 0 0
  bytesLe r.1 ((r.2 + 7) / 8)

/-- The payload bytes a read request's CRC covers (R48, R50). -/
def payload3 (s a rb : Byte) : List Byte := [s, a, rb]

/-- The payload bytes a write request's or response's CRC covers (R49, R50). -/
def payload7 (s a rb : Byte) (val : Word) : List Byte := [s, a, rb] ++ valueBytes val

/-- A payload with its CRC appended, stuffed (R50, R71). -/
def frameOf (p : List Byte) : List Byte := stuff (p ++ [crc8 p])

/-- `frame4(s, a, rb)` (R71). -/
def frame4 (s a rb : Byte) : List Byte := frameOf (payload3 s a rb)

/-- `frame8(s, a, rb, val)` (R71). -/
def frame8 (s a rb : Byte) (val : Word) : List Byte := frameOf (payload7 s a rb val)

/-- The value in a response's accumulator: the bytes at bits 31, 41, 51, 61, most significant first (R54, R76). -/
def extractValue (mval : Nat) : Word :=
  BitVec.ofNat 32
    ((((mval >>> 31) &&& 0xFF) <<< 24) ||| (((mval >>> 41) &&& 0xFF) <<< 16) ||| (((mval >>> 51) &&& 0xFF) <<< 8) |||
      ((mval >>> 61) &&& 0xFF))

/-- `decode(data, es, ea, erb)`: the value, or none for "no value" (R76; the accumulator holds all 80 bits,
90_conflicts.md C4). -/
def decodeResponse (data : List Byte) (es ea erb : Byte) : Option Word :=
  if data.length = Config.wrWire then
    let val := extractValue (intLe data)
    if data = frame8 es ea erb val then some val else none
  else none

/-- ENCRD's effect (R72), shared with the frame row it builds. -/
def buildReadRequest (s : State) : State :=
  let rb := readRegByte s.reg
  ({ s with crc := crc8 (payload3 s.sync s.addr rb) }.putResult (frame4 s.sync s.addr rb)).done

/-- ENCWR's effect (R74), shared with the frame row it builds. -/
def buildWriteRequest (s : State) : State :=
  let rb := writeRegByte s.reg
  ({ s with crc := crc8 (payload7 s.sync s.addr rb s.wval) }.putResult (frame8 s.sync s.addr rb s.wval)).done

/-- DECRD's effect (R77), shared with the frame row it checks: the length test first (R95), then the decoder. -/
def checkResponse (s : State) : State :=
  if s.ilen.toNat ≠ Config.wrWire then raise .noValue s
  else
    match decodeResponse (s.ibuf.readSeq 0 Config.wrWire) s.sync s.addr s.ereg with
    | none => raise .noValue s
    | some v => (s.acceptValue v).done

/-- STUFF (R70). -/
def execStuff (s : State) : Host.Outcome State Fault Refusal :=
  if s.ilen.toNat > Config.maxPay then .next (raise .illegalOperand s)
  else .next (s.putResult (stuff s.inputSeq)).done

/-- ENCRD (R72). -/
def execEncrd (s : State) : Host.Outcome State Fault Refusal := .next (buildReadRequest s)

/-- ENCWR (R74). -/
def execEncwr (s : State) : Host.Outcome State Fault Refusal := .next (buildWriteRequest s)

/-- DECRD (R77). -/
def execDecrd (s : State) : Host.Outcome State Fault Refusal := .next (checkResponse s)

end Sys2Proof.Machine
end

