-- ==== Sys2Proof/Machine/FrameRows.lean ====
section
/-! DEFINITION. The three frame rows of spec/opcode_table.json. A frame is no command of the block (R45); its row
names "the operation that builds or checks the frame" (R60). Each row is run as R59's pseudo-instruction for that
operation: the host writes the operands, then the one operation is performed (DESIGN CHOICE, log entry 3). -/

namespace Sys2Proof.Machine

/-- `ENCRD s, a, r` (R59, R72). The CRC byte of the row is no operand: R72 computes it (log entry 4). -/
def execFrameReadRequest (sync addr : Byte) (reg : BitVec 7) (s : State) : Host.Outcome State Fault Refusal :=
  .next (buildReadRequest { s with sync := sync, addr := addr, reg := reg })

/-- `ENCWR s, a, r, v` (R59, R74). The CRC byte of the row is no operand: R74 computes it (log entry 4). -/
def execFrameWriteRequest (sync addr : Byte) (reg : BitVec 7) (value : Word) (s : State) :
    Host.Outcome State Fault Refusal :=
  .next (buildWriteRequest { s with sync := sync, addr := addr, reg := reg, wval := value })

/-- A response as it comes from the wire: its ten bytes into IBUF with ILEN = 10 (R30), then DECRD (R77) against the
SYNC, ADDR and EREG the host has set: the expected bytes are the host's, never the frame's own (R80). -/
def execFrameReadResponse (sync addr ereg : Byte) (value : Word) (crc : Byte) (s : State) :
    Host.Outcome State Fault Refusal :=
  .next (checkResponse (s.loadInput (bytesLe (w80Word sync addr ereg value crc).toNat Config.wrWire)))

end Sys2Proof.Machine
end

