-- ==== Sys2Proof/Machine/Quantizer.lean ====
section
/-! DEFINITION. The current quantizer: operations QUANT and QSEL (spec/42_quantizer.md). -/

namespace Sys2Proof.Machine

/-- P = i * (r + 20), current in milliamperes times effective resistance in milliohms (R83). -/
def power (i r : BitVec 16) : Nat := i.toNat * (r.toNat + 20)

/-- `reach(n, P, hs)`: the code is at least n (R83). -/
def reach (n P : Nat) (hs : BitVec 1) : Bool :=
  if hs = 0 then decide (2 * P * P ≥ 25000000 * (2 * n + 1) * (2 * n + 1))
  else decide (8 * P * P ≥ 31640625 * (2 * n + 1) * (2 * n + 1))

/-- `quantize` in integers: how many n in 1..31 are reached (R83, the exact value of R81's formula). -/
def quantizeNat (P : Nat) (hs : BitVec 1) : Nat :=
  (List.range 31).countP fun k => reach (k + 1) P hs

/-- The 5-bit code of a current in a mode (R81, R83). -/
def quantize (i r : BitVec 16) (hs : BitVec 1) : BitVec 5 :=
  BitVec.ofNat 5 (quantizeNat (power i r) hs)

/-- SWITCH_BELOW, the selection threshold (R5, R85). -/
def switchBelow : Nat := 16

/-- The mode the selection policy chooses: high when both low-sensitivity codes are below 16 (R85). -/
def selectMode (irun ihold r : BitVec 16) : BitVec 1 :=
  if (quantize irun r 0).toNat < switchBelow ∧ (quantize ihold r 0).toNat < switchBelow then 1 else 0

/-- QUANT (R84). -/
def execQuant (s : State) : Host.Outcome State Fault Refusal :=
  .next ({ s with qrun := quantize s.irun s.rsense s.hsin }.setQhs s.hsin).done

/-- QSEL (R85); a hold current above the run current raises PreconditionViolation (R86). -/
def execQsel (s : State) : Host.Outcome State Fault Refusal :=
  if s.ihold.toNat > s.irun.toNat then .next (raise .preconditionViolation s)
  else
    let hs := selectMode s.irun s.ihold s.rsense
    .next ({ s with qrun := quantize s.irun s.rsense hs, qhold := quantize s.ihold s.rsense hs }.setQhs hs).done

end Sys2Proof.Machine
end

