-- ==== Sys2Proof/Machine/Reserved.lean ====
section
/-! DEFINITION. The reserved command code (spec/30_encoding.md R56 (a)). -/

namespace Sys2Proof.Machine

/-- Command code 0b111: `raise IllegalOp(7)`, which changes nothing but ERR (R56, R92). -/
def execReserved111 (s : State) : Host.Outcome State Fault Refusal := .next (raise .illegalOp s)

end Sys2Proof.Machine
end

