-- ==== Sys2Proof/Machine/Dispatch.lean ====
section
/-! DEFINITION. One arm per constructor of Instr. -/

namespace Sys2Proof.Machine

def exec (i : Instr) (s : State) : Host.Outcome State Fault Refusal :=
  match i with
  | .crc8 => Sys2Proof.Machine.execCrc8 s
  | .stuff => Sys2Proof.Machine.execStuff s
  | .encrd => Sys2Proof.Machine.execEncrd s
  | .encwr => Sys2Proof.Machine.execEncwr s
  | .decrd => Sys2Proof.Machine.execDecrd s
  | .quant => Sys2Proof.Machine.execQuant s
  | .qsel => Sys2Proof.Machine.execQsel s
  | .reserved111 => Sys2Proof.Machine.execReserved111 s
  | .frameReadRequest sy a r _ => Sys2Proof.Machine.execFrameReadRequest sy a r s
  | .frameWriteRequest sy a r v _ => Sys2Proof.Machine.execFrameWriteRequest sy a r v s
  | .frameReadResponse sy a e v c => Sys2Proof.Machine.execFrameReadResponse sy a e v c s

end Sys2Proof.Machine
end

