-- ==== Sys2Proof/Machine/HostPort.lean ====
section
/-! DEFINITION. What one move of the host does (spec/60_exceptions.md R103, spec/30_encoding.md R58). -/

namespace Sys2Proof.Machine

/-- The word on the command port is decoded before any operand is looked at (R95), then the operation is performed
as one indivisible step (R10). -/
def runWord (word : List Byte) (s : State) : Host.Outcome State Fault Refusal :=
  match decodeBytes word with
  | .ok i => exec i s
  | .error e => .refused (.undecodable e)

/-- Reset: every register and buffer byte to R25's value (R113). The host's own list of moves (log
entry 1) and what it has sent (log entry 19) are no state of the block and stay. -/
def resetBlock (s : State) : State := { State.reset with pending := s.pending, sent := s.sent }

/-- One move of the host. -/
def hostMove (m : HostMove) (s : State) : Host.Outcome State Fault Refusal :=
  match m with
  | .write w => .next (s.portWrite w)
  | .writeByte i b =>
    if i < Config.ibufCap then .next { s with ibuf := s.ibuf.write i b } else .fault (.noSuchByte .ibuf i)
  | .writeBytes bytes =>
    if bytes.length ≤ Config.ibufCap then .next (s.loadInput bytes) else .fault (.noSuchByte .ibuf Config.ibufCap)
  | .read p =>
    match p.missing with
    | none => .next s
    | some (sp, i) => .fault (.noSuchByte sp i)
  | .issue word => runWord word s
  | .send => .next s.handOver
  | .reset => .next (resetBlock s)

end Sys2Proof.Machine
end

