-- ==== Sys2Proof/Machine/Step.lean ====
section
/-! DEFINITION. One step: the host's next move. The block has no program counter and fetches nothing (R18); the order
of operations is the order of the host's moves (log entry 1). -/

namespace Sys2Proof.Machine

/-- With no move pending the block is idle and nothing changes (R10, R117); else the first move is taken off the list
and made. -/
def step (s : State) : Host.Outcome State Fault Refusal :=
  match s.pending with
  | [] => .next s
  | m :: rest => hostMove m { s with pending := rest }

/-- The word of an opcode-table row presented as the host's very next move. -/
def State.withFetchWord (s : State) (nbits w : Nat) : State :=
  { s with pending := .issue (tableWordBytes nbits w) :: s.pending }

end Sys2Proof.Machine
end

