-- ==== Sys2Proof/Machine/Script.lean ====
section
/-! DEFINITION. The host script of spec/30_encoding.md R58 and R59: lists of host moves made at the block one after
another, and the seven pseudo-instructions. (`EXPECT` lines do nothing and have no move.) -/

namespace Sys2Proof.Machine

/-- One move made at the block, which stays as it is where the move stops. -/
def moved (s : State) (m : HostMove) : State :=
  match hostMove m s with
  | .next t => t
  | .fault _ => s
  | .refused _ => s

/-- A list of moves made at the block, in order (R40); it ends when its last move has (R112). -/
def runMoves (ms : List HostMove) (s : State) : State := ms.foldl moved s

/-- `CRC8 b0 … b(n-1)` (R59). -/
def psCrc8 (bytes : List Byte) : List HostMove := [.writeBytes bytes, .issue (encode .crc8)]

/-- `STUFF b0 … b(n-1)` (R59). -/
def psStuff (bytes : List Byte) : List HostMove := [.writeBytes bytes, .issue (encode .stuff)]

/-- `ENCRD s, a, r` (R59). -/
def psEncrd (s a : Byte) (r : BitVec 7) : List HostMove :=
  [.write (.sync s), .write (.addr a), .write (.reg r), .issue (encode .encrd)]

/-- `ENCWR s, a, r, v` (R59). -/
def psEncwr (s a : Byte) (r : BitVec 7) (v : Word) : List HostMove :=
  [.write (.sync s), .write (.addr a), .write (.reg r), .write (.wval v), .issue (encode .encwr)]

/-- `DECRD s, a, e : b0 … b(n-1)` (R59). -/
def psDecrd (s a e : Byte) (bytes : List Byte) : List HostMove :=
  [.write (.sync s), .write (.addr a), .write (.ereg e), .writeBytes bytes, .issue (encode .decrd)]

/-- `QUANT i, r, h` (R59). -/
def psQuant (i r : BitVec 16) (h : BitVec 1) : List HostMove :=
  [.write (.irun i), .write (.rsense r), .write (.hsin h), .issue (encode .quant)]

/-- `QSEL irun, ihold, r` (R59). -/
def psQsel (irun ihold r : BitVec 16) : List HostMove :=
  [.write (.irun irun), .write (.ihold ihold), .write (.rsense r), .issue (encode .qsel)]

end Sys2Proof.Machine
end

