-- ==== Sys2Proof/Machine/Session.lean ====
section
/-! DEFINITION. The host that drives the block: the session procedures of spec/60_exceptions.md section 5 (R103 to
R112). They are the block's environment and place no requirement on it; everything they do to the block is a list of
host moves. The link's open parameters are arguments (LinkParams). -/

namespace Sys2Proof.Machine

/-- `CommunicationFailure` (R104, R108): the register, the attempts made, and the chip by its node address
(log entry 12). -/
structure CommunicationFailure where
  register : BitVec 7
  attempts : Nat
  node : Byte
deriving DecidableEq, Repr

/-- The block with the host's state around it (R22): nothing here is state of the block but `block`. -/
structure Session where
  /-- The block. -/
  block : State
  /-- The chip's node address (R104). -/
  node : Byte
  /-- The host's mirror of the write counter, unknown at first (R106, R116). -/
  ifcnt : Option Byte
  /-- The host's debug mode (R109). -/
  debug : Bool
  /-- What the transport will return to the requests to come, in order; any byte sequences (U10). -/
  replies : List (List Byte)
deriving DecidableEq, Repr

/-- A session as it is created. The counter is unknown (R116). That the block has just been reset and that the host is
not in debug mode are the model's choices, since the spec gives neither a state of the block nor an initial value of
the debug mode here (DESIGN CHOICE, log entry 18); every claim about a session takes an arbitrary one. -/
def Session.start (node : Byte) (replies : List (List Byte)) : Session where
  block := State.reset
  node := node
  ifcnt := none
  debug := false
  replies := replies

/-- Received bytes put into IBUF with their count in ILEN (R103). A reply longer than IBUF cannot be presented: its
count is presented as an ILEN other than 10, here 31 (U10; log entry 11). -/
def presentReply (reply : List Byte) : List HostMove :=
  if reply.length ≤ Config.ibufCap then [.writeBytes reply] else [.write (.ilen 31)]

/-- The register byte the host expects back: the address with RESP_WBIT as bit 7 (R80, R104). -/
def expectedRegByte (p : LinkParams) (reg : BitVec 7) : Byte := p.respWbit ++ reg

/-- The moves of `DECRD RESP_SYNC, RESP_ADDR, reg | (RESP_WBIT << 7) : reply` (R59, R104). -/
def decodeMoves (p : LinkParams) (reg : BitVec 7) (reply : List Byte) : List HostMove :=
  [.write (.sync p.respSync), .write (.addr p.respAddr), .write (.ereg (expectedRegByte p reg))] ++
    presentReply reply ++ [.issue (encode .decrd)]

/-- One attempt of a read: request built and sent, reply decoded (R104). A transport with nothing left to return
returns no byte (log entry 11). -/
def readAttempt (p : LinkParams) (reg : BitVec 7) (z : Session) : Session × Option Word :=
  let answered := runMoves (psEncrd p.reqSync z.node reg ++ .send :: decodeMoves p reg (z.replies.headD [])) z.block
  ({ z with block := answered, replies := z.replies.tail },
    if answered.rvalid = 1 then some answered.rval else none)

/-- At most n attempts of a read (R104, R105). -/
def readLoop (p : LinkParams) (reg : BitVec 7) : Nat → Session → Session × Except CommunicationFailure Word
  | 0, z => (z, .error ⟨reg, Config.retryBudget, z.node⟩)
  | n + 1, z =>
    match readAttempt p reg z with
    | (z', some v) => (z', .ok v)
    | (z', none) => readLoop p reg n z'

/-- `read_register` (R104, R105); in debug mode a fixed value and nothing else (R109). -/
def readRegister (p : LinkParams) (reg : BitVec 7) (z : Session) : Session × Except CommunicationFailure Word :=
  if z.debug then (z, .ok p.debugReadValue) else readLoop p reg Config.retryBudget z

/-- The write request of one attempt, built and sent (R106). -/
def sendWrite (p : LinkParams) (reg : BitVec 7) (value : Word) (z : Session) : Session :=
  { z with block := runMoves (psEncwr p.reqSync z.node reg value ++ [.send]) z.block }

/-- At most n attempts of a write: send, re-read the counter, confirm an advance by 1 modulo 256 from the snapshot,
which is not refreshed between attempts (R106, R107). A failed counter read ends the write with its own failure. -/
def writeLoop (p : LinkParams) (reg : BitVec 7) (value : Word) (snapshot : Byte) :
    Nat → Session → Session × Except CommunicationFailure Unit
  | 0, z => (z, .error ⟨reg, Config.retryBudget, z.node⟩)
  | n + 1, z =>
    match readRegister p p.ifcntAddr (sendWrite p reg value z) with
    | (z', .error f) => (z', .error f)
    | (z', .ok c) =>
      if c.setWidth 8 = snapshot + 1 then ({ z' with ifcnt := some (c.setWidth 8) }, .ok ())
      else writeLoop p reg value snapshot n z'

/-- `write_register` (R106); a no-op in debug mode (R109). -/
def writeRegister (p : LinkParams) (reg : BitVec 7) (value : Word) (z : Session) :
    Session × Except CommunicationFailure Unit :=
  if z.debug then (z, .ok ())
  else
    match z.ifcnt with
    | some c => writeLoop p reg value c Config.retryBudget z
    | none =>
      match readRegister p p.ifcntAddr z with
      | (z', .error f) => (z', .error f)
      | (z', .ok c) =>
        writeLoop p reg value (c.setWidth 8) Config.retryBudget { z' with ifcnt := some (c.setWidth 8) }

/-- First connection: every cached register is pushed once, in insertion order (R111). Whether a failure ends the
sequence is the caller's decision (R108), the argument `abort`. The failures, in order. -/
def connect (p : LinkParams) (abort : Bool) :
    List (BitVec 7 × Word) → Session → Session × List CommunicationFailure
  | [], z => (z, [])
  | (reg, value) :: cache, z =>
    match writeRegister p reg value z with
    | (z', .ok ()) => connect p abort cache z'
    | (z', .error f) =>
      if abort then (z', [f])
      else
        let r := connect p abort cache z'
        (r.1, f :: r.2)

end Sys2Proof.Machine
end

