-- ==== Sys2Proof/Safety.lean ====
section
/-! DEFINITION. What counts as a state the machine can be in, and as a host that keeps to its ports. -/

namespace Sys2Proof.Machine

/-- IBUF and OBUF are in canonical form and list no byte beyond their capacity (R28). -/
abbrev State.buffersOk (s : State) : Prop :=
  s.ibuf.wf = true ∧ s.ibuf.within Config.ibufCap = true ∧ s.obuf.wf = true ∧ s.obuf.within Config.obufCap = true

/-- OLEN is 0 to 10, and OBUF is 0x00 from index OLEN up (R12, R20). -/
abbrev State.resultOk (s : State) : Prop :=
  s.olen.toNat ≤ Config.obufCap ∧ ∀ c ∈ s.obuf, c.1 < s.olen.toNat

/-- ERR is one of 0 to 4 (R17, R56 (d)), and RVAL is 0 whenever RVALID is 0 (R12). -/
abbrev State.statusOk (s : State) : Prop :=
  s.err.toNat ≤ 4 ∧ (s.rvalid = 0 → s.rval = 0)

/-- The invariant of the block. -/
abbrev State.Inv (s : State) : Prop := s.buffersOk ∧ s.resultOk ∧ s.statusOk

/-- A move a host can make: buffer bytes that exist (R28) and words of the opcode table (R44, R51, R53). -/
def HostMove.possible : HostMove → Bool
  | .write _ => true
  | .writeByte i _ => decide (i < Config.ibufCap)
  | .writeBytes bytes => decide (bytes.length ≤ Config.ibufCap)
  | .read p => p.missing.isNone
  | .issue word => (decodeBytes word).toBool
  | .send => true
  | .reset => true

/-- Every pending move is one a host can make. -/
def State.driven (s : State) : Bool := s.pending.all HostMove.possible

end Sys2Proof.Machine
end

