-- ==== Sys2Proof/Certificates/Slice0/Obligations.lean ====
section
/-! DEFINITION. The statements for the provers. Rules R<n> are spec/'s. A command is one of the eight rows of format
CMD3; the three frame rows have statements of their own. -/

open Sys2Proof Sys2Proof.Machine

namespace Sys2Proof.Claims

/-- The eight rows of format CMD3 (R44). -/
def commands : List Instr := [.crc8, .stuff, .encrd, .encwr, .decrd, .quant, .qsel, .reserved111]

/-- OBUF after a result sequence w of at most 10 bytes: w and zeros, and nothing beyond its ten bytes touched
(R20, R29). -/
def holdsResult (before after : Memory) (w : List Byte) : Prop :=
  after.readSeq 0 10 = w ++ List.replicate (10 - w.length) 0 ∧ ∀ j, 10 ≤ j → after.read j = before.read j

/-- Data with bit k of its stream integer flipped. -/
def flipBit (data : List Byte) (k : Nat) : List Byte :=
  data.set (k / 8) (data.getD (k / 8) 0 ^^^ BitVec.ofNat 8 (2 ^ (k % 8)))

/-- The operand registers and the input buffer are the same (R14). -/
def sameOperands (s t : State) : Prop :=
  t.sync = s.sync ∧ t.addr = s.addr ∧ t.reg = s.reg ∧ t.ereg = s.ereg ∧ t.wval = s.wval ∧ t.ilen = s.ilen ∧
    t.irun = s.irun ∧ t.ihold = s.ihold ∧ t.rsense = s.rsense ∧ t.hsin = s.hsin ∧ t.ibuf = s.ibuf

/-- R91's table: for each command the code ERR takes, given the state the command is performed in. -/
def errTable : List (Instr × (State → BitVec 3)) := [
  (.crc8, fun s => if s.ilen.toNat ≤ 16 then 0 else 3),
  (.stuff, fun s => if s.ilen.toNat ≤ 8 then 0 else 3),
  (.encrd, fun _ => 0),
  (.encwr, fun _ => 0),
  (.decrd, fun s =>
    if s.ilen.toNat = 10 ∧
        s.ibuf.readSeq 0 10 = frame8 s.sync s.addr s.ereg (extractValue (intLe (s.ibuf.readSeq 0 10)))
    then 0 else 1),
  (.quant, fun _ => 0),
  (.qsel, fun s => if s.ihold.toNat ≤ s.irun.toNat then 0 else 4),
  (.reserved111, fun _ => 2)]

/-- n is `clamp(round(x), 0, 31)`, rounding half up (R9, R81, R82). -/
abbrev isClampedRound (x : ℝ) (n : ℤ) : Prop := n = max 0 (min 31 ⌊x + 1 / 2⌋)

/-- Reply j of the transport; a transport with nothing left returns no byte (log entry 11). -/
def reply (z : Session) (j : Nat) : List Byte := z.replies.getD j []

/-- What the host's decoder makes of reply j of a read of `reg` (R104). -/
def answer (p : LinkParams) (reg : BitVec 7) (z : Session) (j : Nat) : Option Word :=
  decodeResponse (reply z j) p.respSync p.respAddr (p.respWbit ++ reg)

/-- A re-read of the write counter that is answered: replies that do not decode, then the frame of the value (R106).
The pair is those replies and that value. -/
def counterReplies (p : LinkParams) (g : List (List Byte) × Word) : List (List Byte) :=
  g.1 ++ [frame8 p.respSync p.respAddr (p.respWbit ++ p.ifcntAddr) g.2]

/-- The re-read is answered within its budget of five attempts (R104, R106). -/
def answeredInTime (p : LinkParams) (g : List (List Byte) × Word) : Prop :=
  g.1.length ≤ 4 ∧ ∀ d ∈ g.1, decodeResponse d p.respSync p.respAddr (p.respWbit ++ p.ifcntAddr) = none

/-- The frame of a write request of the session (R106). -/
def writeFrame (p : LinkParams) (node : Byte) (reg : BitVec 7) (value : Word) : List Byte :=
  frame8 p.reqSync node (writeRegByte reg) value

/-- The frame of a read request of the session (R104). -/
def readFrame (p : LinkParams) (node : Byte) (reg : BitVec 7) : List Byte :=
  frame4 p.reqSync node (readRegByte reg)

/-- What one attempt of a write sends: the write request, and a read request for each attempt of its re-read. -/
def attemptFrames (p : LinkParams) (node : Byte) (reg : BitVec 7) (value : Word) (g : List (List Byte) × Word) :
    List (List Byte) :=
  writeFrame p node reg value :: List.replicate (g.1.length + 1) (readFrame p node p.ifcntAddr)

end Sys2Proof.Claims

open Sys2Proof.Claims

/-! ### Reset, decoding, stepping -/

/-- R25: after reset every register and every buffer byte is zero. -/
def Obligations.ResetClearsEveryRegisterAndByte : Prop :=
  (∀ p : ReadPort, State.reset.portRead p = 0) ∧
    ∀ i, State.reset.ibuf.read i = 0 ∧ State.reset.obuf.read i = 0

/-- R113, the reset of a block in any state; that the host's pending moves and what it has sent stay is the model's
choice (log entries 1 and 19). -/
def Obligations.ResetMoveClearsTheBlock : Prop :=
  ∀ (s : State) (ms : List HostMove), s.pending = .reset :: ms →
    step s = .next { State.reset with pending := ms, sent := s.sent }

/-- R44's table: each code's row, and no other byte on the command port (the byte form is the model's, log entry 2). -/
def Obligations.CommandCodesSelectTheOperations : Prop :=
  decodeTableWord 8 0 = some .crc8 ∧ decodeTableWord 8 1 = some .stuff ∧ decodeTableWord 8 2 = some .encrd ∧
    decodeTableWord 8 3 = some .encwr ∧ decodeTableWord 8 4 = some .decrd ∧ decodeTableWord 8 5 = some .quant ∧
    decodeTableWord 8 6 = some .qsel ∧ decodeTableWord 8 7 = some .reserved111 ∧
    ∀ w, 8 ≤ w → w < 256 → decodeTableWord 8 w = none

/-- The worked examples of R51, R53 and R77: the wire bytes read as the frames they are. That the second, whose bit 28
is set, reads as a write request and not as a response is the model's choice (log entry 5). -/
def Obligations.WorkedExampleFramesDecode : Prop :=
  decodeBytes [0xEA, 0x03, 0xC8, 0x20, 0x94] = .ok (.frameReadRequest 0xF5 0x00 0x06 0x28) ∧
    decodeBytes [0xEA, 0x03, 0x08, 0x32, 0x80, 0x00, 0x02, 0x08, 0x38, 0xD0] =
      .ok (.frameWriteRequest 0xF5 0x00 0x10 0x000000C0 0xA0) ∧
    decodeBytes [0x0A, 0xFA, 0xCF, 0x20, 0x80, 0x00, 0x0A, 0x08, 0x28, 0xC8] =
      .ok (.frameReadResponse 0x05 0xFF 0x06 0x00000140 0x90)

/-- Decoding an encoded well-formed instruction gives it back. A response whose register byte has bit 7 set is not well
formed: its word is also a write request's and decodes to that. Which of the two rows such a word reads as, and what
wellFormed leaves out for it, is the model's choice (log entry 5), as is the one-byte word of a command (log entry 2). -/
def Obligations.DecodeOfEncodeIsTheInstruction : Prop :=
  (∀ i : Instr, i.wellFormed = true → decodeBytes (encode i) = .ok i) ∧
    ∀ (s a e : Byte) (v : Word) (c : Byte), e.getLsbD 7 = true →
      decodeBytes (encode (.frameReadResponse s a e v c)) = .ok (.frameWriteRequest s a (e.setWidth 7) v c)

/-- What decodes is well formed and encodes to the same word. That each word has one reading is the model's choice where
the spec gives it two rows or no word form: an 80-bit word with bit 28 set (log entry 5), a command's byte (log
entry 2). -/
def Obligations.EncodeOfDecodeIsTheWord : Prop :=
  ∀ (w : List Byte) (i : Instr), decodeBytes w = .ok i → i.wellFormed = true ∧ encode i = w

/-- A step performs the decoded instruction of the word the host issues next, and takes the move off its list; with
no move pending nothing changes (R10; the list is the model's, log entry 1). -/
def Obligations.StepRunsTheIssuedInstruction : Prop :=
  (∀ (s : State) (w : List Byte) (ms : List HostMove) (i : Instr),
      s.pending = .issue w :: ms → decodeBytes w = .ok i → step s = exec i { s with pending := ms }) ∧
    (∀ (s : State) (nbits w : Nat) (i : Instr),
      decodeTableWord nbits w = some i → step (s.withFetchWord nbits w) = exec i s) ∧
    ∀ s : State, s.pending = [] → step s = .next s

/-- The host's port writes change the register they name and nothing else; a read of anything the block has changes
nothing (R23, R31). -/
def Obligations.HostRegisterMovesDoOneThing : Prop :=
  ∀ s : State,
    (∀ v, hostMove (.write (.sync v)) s = .next { s with sync := v }) ∧
    (∀ v, hostMove (.write (.addr v)) s = .next { s with addr := v }) ∧
    (∀ v, hostMove (.write (.reg v)) s = .next { s with reg := v }) ∧
    (∀ v, hostMove (.write (.ereg v)) s = .next { s with ereg := v }) ∧
    (∀ v, hostMove (.write (.wval v)) s = .next { s with wval := v }) ∧
    (∀ v, hostMove (.write (.ilen v)) s = .next { s with ilen := v }) ∧
    (∀ v, hostMove (.write (.irun v)) s = .next { s with irun := v }) ∧
    (∀ v, hostMove (.write (.ihold v)) s = .next { s with ihold := v }) ∧
    (∀ v, hostMove (.write (.rsense v)) s = .next { s with rsense := v }) ∧
    (∀ v, hostMove (.write (.hsin v)) s = .next { s with hsin := v }) ∧
    ∀ p : ReadPort, (∀ i, p = .ibuf i → i < 16) → (∀ i, p = .obuf i → i < 10) → hostMove (.read p) s = .next s

/-- The host's buffer writes (R30, R58): the bytes given and no others; `WRB` also sets ILEN. -/
def Obligations.HostBufferMovesStoreTheirBytes : Prop :=
  ∀ s : State, s.ibuf.wf = true →
    (∀ i b, i < 16 → ∃ m, hostMove (.writeByte i b) s = .next { s with ibuf := m } ∧
      m.read i = b ∧ ∀ j, j ≠ i → m.read j = s.ibuf.read j) ∧
    ∀ bs : List Byte, bs.length ≤ 16 →
      ∃ m, hostMove (.writeBytes bs) s = .next { s with ibuf := m, ilen := BitVec.ofNat 5 bs.length } ∧
        m.readSeq 0 bs.length = bs ∧ ∀ j, bs.length ≤ j → m.read j = s.ibuf.read j

/-- A host read gives the register or buffer byte it names, as an unsigned value (R23, R103; that it is one 32-bit
value is the model's form, log entry 10). -/
def Obligations.HostReadsGiveTheValueTheyName : Prop :=
  ∀ s : State,
    (s.portRead .sync).toNat = s.sync.toNat ∧ (s.portRead .addr).toNat = s.addr.toNat ∧
    (s.portRead .reg).toNat = s.reg.toNat ∧ (s.portRead .ereg).toNat = s.ereg.toNat ∧
    (s.portRead .wval).toNat = s.wval.toNat ∧ (s.portRead .ilen).toNat = s.ilen.toNat ∧
    (s.portRead .irun).toNat = s.irun.toNat ∧ (s.portRead .ihold).toNat = s.ihold.toNat ∧
    (s.portRead .rsense).toNat = s.rsense.toNat ∧ (s.portRead .hsin).toNat = s.hsin.toNat ∧
    (s.portRead .crc).toNat = s.crc.toNat ∧ (s.portRead .olen).toNat = s.olen.toNat ∧
    (s.portRead .rval).toNat = s.rval.toNat ∧ (s.portRead .rvalid).toNat = s.rvalid.toNat ∧
    (s.portRead .qrun).toNat = s.qrun.toNat ∧ (s.portRead .qhold).toNat = s.qhold.toNat ∧
    (s.portRead .qhs).toNat = s.qhs.toNat ∧ (s.portRead .err).toNat = s.err.toNat ∧
    (∀ i, i < 16 → (s.portRead (.ibuf i)).toNat = (s.ibuf.read i).toNat) ∧
    ∀ i, i < 10 → (s.portRead (.obuf i)).toNat = (s.obuf.read i).toNat

/-- The host hands OBUF[0..OLEN-1] to the transport (R103): whatever operation built them, those bytes and no others
are sent, and nothing else changes (the record of what was sent is the model's, log entry 19). -/
def Obligations.SendHandsOverTheResultSequence : Prop :=
  ∀ s : State,
    hostMove .send s = .next { s with sent := s.sent ++ [s.obuf.readSeq 0 s.olen.toNat] } ∧
    (s.obuf.wf = true →
      (s.ilen.toNat ≤ 8 →
        (runMoves [.issue (encode .stuff), .send] s).sent = s.sent ++ [stuff (s.ibuf.readSeq 0 s.ilen.toNat)]) ∧
      (runMoves [.issue (encode .encrd), .send] s).sent = s.sent ++ [frame4 s.sync s.addr (readRegByte s.reg)] ∧
      (runMoves [.issue (encode .encwr), .send] s).sent =
        s.sent ++ [frame8 s.sync s.addr (writeRegByte s.reg) s.wval])

/-- Where the machine stops: a buffer byte that does not exist (R28), a word that is no row of the table. -/
def Obligations.ImpossibleHostMovesStopByName : Prop :=
  ∀ s : State,
    (∀ i b, 16 ≤ i → hostMove (.writeByte i b) s = .fault (.noSuchByte .ibuf i)) ∧
    (∀ bs : List Byte, 16 < bs.length → hostMove (.writeBytes bs) s = .fault (.noSuchByte .ibuf 16)) ∧
    (∀ i, 16 ≤ i → hostMove (.read (.ibuf i)) s = .fault (.noSuchByte .ibuf i)) ∧
    (∀ i, 10 ≤ i → hostMove (.read (.obuf i)) s = .fault (.noSuchByte .obuf i)) ∧
    ∀ w e, decodeBytes w = .error e → hostMove (.issue w) s = .refused (.undecodable e)

/-- A host that keeps to the block's ports never stops it: the step is total (R10). That a step takes one move off the
pending list, a reset move included, is the model's choice (log entry 1). -/
def Obligations.DrivenHostNeverStopsTheMachine : Prop :=
  ∀ s : State, s.driven = true →
    ∃ t, step s = .next t ∧ t.driven = true ∧ t.pending = s.pending.tail

/-! ### The operations -/

/-- R64. -/
def Obligations.Crc8WritesTheChecksumOfTheInput : Prop :=
  decodeTableWord 8 0b000 = some .crc8 ∧
  ∀ s : State,
    (s.ilen.toNat ≤ 16 →
      exec .crc8 s = .next { s with crc := crc8 (s.ibuf.readSeq 0 s.ilen.toNat), err := 0 }) ∧
    (16 < s.ilen.toNat → exec .crc8 s = .next { s with err := 3 })

/-- R70. -/
def Obligations.StuffWritesTheWireBytesOfTheInput : Prop :=
  decodeTableWord 8 0b001 = some .stuff ∧
  ∀ s : State, s.obuf.wf = true →
    (s.ilen.toNat ≤ 8 →
      ∃ m, exec .stuff s =
          .next { s with obuf := m, olen := BitVec.ofNat 4 ((10 * s.ilen.toNat + 7) / 8), err := 0 } ∧
        (stuff (s.ibuf.readSeq 0 s.ilen.toNat)).length = (10 * s.ilen.toNat + 7) / 8 ∧
        holdsResult s.obuf m (stuff (s.ibuf.readSeq 0 s.ilen.toNat))) ∧
    (8 < s.ilen.toNat → exec .stuff s = .next { s with err := 3 })

/-- R72. -/
def Obligations.EncrdBuildsTheReadRequest : Prop :=
  decodeTableWord 8 0b010 = some .encrd ∧
  ∀ s : State, s.obuf.wf = true →
    ∃ m, exec .encrd s =
        .next { s with crc := crc8 [s.sync, s.addr, s.reg.setWidth 8], obuf := m, olen := 5, err := 0 } ∧
      holdsResult s.obuf m (frame4 s.sync s.addr (s.reg.setWidth 8))

/-- R74. -/
def Obligations.EncwrBuildsTheWriteRequest : Prop :=
  decodeTableWord 8 0b011 = some .encwr ∧
  ∀ s : State, s.obuf.wf = true →
    ∃ m, exec .encwr s =
        .next { s with
          crc := crc8 [s.sync, s.addr, s.reg.setWidth 8 ||| 0x80, s.wval.extractLsb' 24 8, s.wval.extractLsb' 16 8,
            s.wval.extractLsb' 8 8, s.wval.extractLsb' 0 8]
          obuf := m, olen := 10, err := 0 } ∧
      m.readSeq 0 10 = frame8 s.sync s.addr (s.reg.setWidth 8 ||| 0x80) s.wval ∧
      ∀ j, 10 ≤ j → m.read j = s.obuf.read j

/-- R77. -/
def Obligations.DecrdAcceptsOrAnswersNoValue : Prop :=
  decodeTableWord 8 0b100 = some .decrd ∧
  ∀ s : State,
    (s.ilen.toNat ≠ 10 → exec .decrd s = .next { s with rvalid := 0, rval := 0, err := 1 }) ∧
    (∀ v, s.ilen.toNat = 10 → decodeResponse (s.ibuf.readSeq 0 10) s.sync s.addr s.ereg = some v →
      exec .decrd s = .next { s with rval := v, rvalid := 1, err := 0 }) ∧
    (s.ilen.toNat = 10 → decodeResponse (s.ibuf.readSeq 0 10) s.sync s.addr s.ereg = none →
      exec .decrd s = .next { s with rvalid := 0, rval := 0, err := 1 })

/-- R84. -/
def Obligations.QuantWritesTheCodeAndItsMode : Prop :=
  decodeTableWord 8 0b101 = some .quant ∧
  ∀ s : State, exec .quant s =
    .next { s with qrun := quantize s.irun s.rsense s.hsin, qhs := s.hsin, err := 0 }

/-- R85, R86. -/
def Obligations.QselChoosesTheModeAndQuantizesBoth : Prop :=
  decodeTableWord 8 0b110 = some .qsel ∧
  ∀ s : State,
    (s.irun.toNat < s.ihold.toNat → exec .qsel s = .next { s with err := 4 }) ∧
    (s.ihold.toNat ≤ s.irun.toNat →
      (quantize s.irun s.rsense 0).toNat < 16 → (quantize s.ihold s.rsense 0).toNat < 16 →
      exec .qsel s = .next { s with
        qrun := quantize s.irun s.rsense 1, qhold := quantize s.ihold s.rsense 1, qhs := 1, err := 0 }) ∧
    (s.ihold.toNat ≤ s.irun.toNat →
      (16 ≤ (quantize s.irun s.rsense 0).toNat ∨ 16 ≤ (quantize s.ihold s.rsense 0).toNat) →
      exec .qsel s = .next { s with
        qrun := quantize s.irun s.rsense 0, qhold := quantize s.ihold s.rsense 0, qhs := 0, err := 0 })

/-- R56 (a): the reserved code changes nothing but ERR. -/
def Obligations.ReservedCodeRaisesIllegalOp : Prop :=
  decodeTableWord 8 0b111 = some .reserved111 ∧
  ∀ s : State, exec .reserved111 s = .next { s with err := 2 }

/-- R92. -/
def Obligations.RaiseWritesOnlyWhatTheConditionNames : Prop :=
  ∀ s : State,
    raise .noValue s = { s with rvalid := 0, rval := 0, err := 1 } ∧
    raise .illegalOp s = { s with err := 2 } ∧
    raise .illegalOperand s = { s with err := 3 } ∧
    raise .preconditionViolation s = { s with err := 4 }

/-- The read-request frame row, run as R59's `ENCRD s, a, r` (the model's choice, log entries 3 and 4). When its CRC
byte is the CRC of its fields, OBUF then holds the row's own word (R51). -/
def Obligations.FrameReadRequestBuildsItsWord : Prop :=
  ∀ (s : State) (sy a : Byte) (r : BitVec 7) (c : Byte), s.obuf.wf = true →
    ∃ m, exec (.frameReadRequest sy a r c) s =
        .next { s with
          sync := sy, addr := a, reg := r, crc := crc8 [sy, a, r.setWidth 8], obuf := m, olen := 5, err := 0 } ∧
      holdsResult s.obuf m (frame4 sy a (r.setWidth 8)) ∧
      (c = crc8 [sy, a, r.setWidth 8] → m.readSeq 0 5 = encode (.frameReadRequest sy a r c))

/-- The write-request frame row, run as R59's `ENCWR s, a, r, v` (the model's choice, log entries 3 and 4). When its
CRC byte is the CRC of its fields, OBUF then holds the row's own word (R53). -/
def Obligations.FrameWriteRequestBuildsItsWord : Prop :=
  ∀ (s : State) (sy a : Byte) (r : BitVec 7) (v : Word) (c : Byte), s.obuf.wf = true →
    ∃ m, exec (.frameWriteRequest sy a r v c) s =
        .next { s with
          sync := sy, addr := a, reg := r, wval := v, crc := crc8 (payload7 sy a (1#1 ++ r) v),
          obuf := m, olen := 10, err := 0 } ∧
      m.readSeq 0 10 = frame8 sy a (1#1 ++ r) v ∧
      (∀ j, 10 ≤ j → m.read j = s.obuf.read j) ∧
      (c = crc8 (payload7 sy a (1#1 ++ r) v) → m.readSeq 0 10 = encode (.frameWriteRequest sy a r v c))

/-- The response frame row: its ten bytes go into IBUF and DECRD checks them (the model's choice, log entry 3). It is
accepted exactly when its sync, address and register bytes are the expected ones and its CRC byte is right (R78). -/
def Obligations.FrameReadResponseIsCheckedFieldByField : Prop :=
  ∀ (s : State) (sy a e : Byte) (v : Word) (c : Byte), s.ibuf.wf = true →
    ∃ m, m.readSeq 0 10 = encode (.frameReadResponse sy a e v c) ∧
      (∀ j, 10 ≤ j → m.read j = s.ibuf.read j) ∧
      (sy = s.sync ∧ a = s.addr ∧ e = s.ereg ∧ c = crc8 (payload7 sy a e v) →
        exec (.frameReadResponse sy a e v c) s =
          .next { s with ibuf := m, ilen := 10, rval := v, rvalid := 1, err := 0 }) ∧
      (¬(sy = s.sync ∧ a = s.addr ∧ e = s.ereg ∧ c = crc8 (payload7 sy a e v)) →
        exec (.frameReadResponse sy a e v c) s =
          .next { s with ibuf := m, ilen := 10, rval := 0, rvalid := 0, err := 1 })

/-- The frame rows do what R59's pseudo-instructions of their operations do, at any state: the model's choice (log
entry 3), and for the request rows with every CRC byte (log entry 4). -/
def Obligations.FrameRowsRunThePseudoInstructions : Prop :=
  ∀ (s : State) (sy a e : Byte) (r : BitVec 7) (v : Word) (c : Byte),
    exec (.frameReadRequest sy a r c) s = .next (runMoves (psEncrd sy a r) s) ∧
    exec (.frameWriteRequest sy a r v c) s = .next (runMoves (psEncwr sy a r v) s) ∧
    exec (.frameReadResponse sy a e v c) s =
      .next (runMoves (psDecrd s.sync s.addr s.ereg (encode (.frameReadResponse sy a e v c))) s)

/-! ### Whole-block rules -/

/-- R91: every command ends normally or with the one condition of the table, and ERR shows it. -/
def Obligations.ErrShowsTheOutcomeOfEveryCommand : Prop :=
  ∀ row ∈ errTable, ∀ s : State, ∃ t, exec row.1 s = .next t ∧ t.err = row.2 s

/-- R14: no operation writes an operand register or IBUF, and the same command again changes nothing more. -/
def Obligations.CommandsAreIdempotent : Prop :=
  ∀ i ∈ commands, ∀ s : State, s.buffersOk →
    ∃ t, exec i s = .next t ∧ sameOperands s t ∧ exec i t = .next t

/-- R15, R16, R118 (e), (f): RVALID and RVAL are written by DECRD alone, QHS and QRUN by QUANT and QSEL alone, QHOLD by
QSEL alone. -/
def Obligations.FlagsAreWrittenByTheirOperationsAlone : Prop :=
  ∀ i ∈ commands, ∀ s t : State, exec i s = .next t →
    (i ≠ .decrd → t.rvalid = s.rvalid ∧ t.rval = s.rval) ∧
    (i ≠ .quant → i ≠ .qsel → t.qhs = s.qhs ∧ t.qrun = s.qrun) ∧
    (i ≠ .qsel → t.qhold = s.qhold) ∧
    (i = .decrd → t.obuf = s.obuf ∧ t.olen = s.olen ∧ t.crc = s.crc)

/-- R13's reads column: what an operation writes depends on the operands it is listed for and on nothing else, no
earlier result included (R11, R21, R114). -/
def Obligations.OperationsReadOnlyTheirOperands : Prop :=
  ∀ s s' : State, s.obuf.wf = true → s'.obuf.wf = true →
    (s.ilen = s'.ilen → (∀ k, k < s.ilen.toNat → s.ibuf.read k = s'.ibuf.read k) →
      ∃ t t', exec .crc8 s = .next t ∧ exec .crc8 s' = .next t' ∧ t.err = t'.err ∧ (t.err = 0 → t.crc = t'.crc)) ∧
    (s.ilen = s'.ilen → (∀ k, k < s.ilen.toNat → s.ibuf.read k = s'.ibuf.read k) →
      ∃ t t', exec .stuff s = .next t ∧ exec .stuff s' = .next t' ∧ t.err = t'.err ∧
        (t.err = 0 → t.olen = t'.olen ∧ ∀ j, j < 10 → t.obuf.read j = t'.obuf.read j)) ∧
    (s.sync = s'.sync → s.addr = s'.addr → s.reg = s'.reg →
      ∃ t t', exec .encrd s = .next t ∧ exec .encrd s' = .next t' ∧ t.err = t'.err ∧ t.crc = t'.crc ∧
        t.olen = t'.olen ∧ ∀ j, j < 10 → t.obuf.read j = t'.obuf.read j) ∧
    (s.sync = s'.sync → s.addr = s'.addr → s.reg = s'.reg → s.wval = s'.wval →
      ∃ t t', exec .encwr s = .next t ∧ exec .encwr s' = .next t' ∧ t.err = t'.err ∧ t.crc = t'.crc ∧
        t.olen = t'.olen ∧ ∀ j, j < 10 → t.obuf.read j = t'.obuf.read j) ∧
    (s.ilen = s'.ilen → (∀ k, k < 10 → s.ibuf.read k = s'.ibuf.read k) → s.sync = s'.sync → s.addr = s'.addr →
      s.ereg = s'.ereg →
      ∃ t t', exec .decrd s = .next t ∧ exec .decrd s' = .next t' ∧ t.err = t'.err ∧ t.rval = t'.rval ∧
        t.rvalid = t'.rvalid) ∧
    (s.irun = s'.irun → s.rsense = s'.rsense → s.hsin = s'.hsin →
      ∃ t t', exec .quant s = .next t ∧ exec .quant s' = .next t' ∧ t.err = t'.err ∧ t.qrun = t'.qrun ∧
        t.qhs = t'.qhs) ∧
    (s.irun = s'.irun → s.ihold = s'.ihold → s.rsense = s'.rsense →
      ∃ t t', exec .qsel s = .next t ∧ exec .qsel s' = .next t' ∧ t.err = t'.err ∧
        (t.err = 0 → t.qrun = t'.qrun ∧ t.qhold = t'.qhold ∧ t.qhs = t'.qhs))

/-- The invariant holds after reset. -/
def Obligations.ResetMeetsTheInvariant : Prop := State.reset.Inv

/-- Every step keeps the invariant: both buffers canonical and within their capacity (R28), OLEN at most 10 and OBUF
zero from there up (R20), ERR one of 0 to 4 (R17), RVAL zero whenever RVALID is 0 (R12). -/
def Obligations.StepKeepsTheInvariant : Prop :=
  ∀ s t : State, s.Inv → step s = .next t → t.Inv

/-! ### The checksum -/

open Polynomial in
/-- R65: the CRC is the remainder of M(x) * x^8 under x^8 + x^2 + x + 1 over GF(2), M having the data bits in wire
order as coefficients from the highest power down. -/
def Obligations.CrcIsThePolynomialRemainder : Prop :=
  ∀ s : List Byte,
    (∑ i ∈ Finset.range 8, if (crc8 s).getLsbD i then (X : (ZMod 2)[X]) ^ i else 0) =
      ((wireBits s).foldl (fun p b => p * X + if b then 1 else 0) 0 * X ^ 8) %ₘ (X ^ 8 + X ^ 2 + X + 1)

/-- R67 (a). -/
def Obligations.CrcIsLinear : Prop :=
  ∀ s t : List Byte, s.length = t.length → crc8 (List.zipWith (· ^^^ ·) s t) = crc8 s ^^^ crc8 t

/-- R67 (b): every single-bit change changes the CRC. -/
def Obligations.CrcDetectsEverySingleBitChange : Prop :=
  ∀ (s : List Byte) (k : Nat), k < 8 * s.length → crc8 (flipBit s k) ≠ crc8 s

/-- R66, R67 (d): leading zero bytes do not change the CRC, and the bit-reversed CRC appended gives 0. -/
def Obligations.CrcIgnoresLeadingZerosAndHasResidueZero : Prop :=
  ∀ s : List Byte, crc8 (0 :: s) = crc8 s ∧ crc8 (s ++ [(crc8 s).reverse]) = 0

/-! ### Frames -/

/-- R33, R34, R36, R38, R46, R47: where every bit of a stuffed payload lies. -/
def Obligations.StuffLaysUnitsOutBitByBit : Prop :=
  ∀ m : List Byte,
    (stuff m).length = (10 * m.length + 7) / 8 ∧
    (∀ (k : Nat) (h : k < m.length),
      (intLe (stuff m)).testBit (10 * k) = false ∧ (intLe (stuff m)).testBit (10 * k + 9) = true ∧
      ∀ b, b < 8 → (intLe (stuff m)).testBit (10 * k + 1 + b) = m[k].getLsbD b) ∧
    ∀ j, 10 * m.length ≤ j → (intLe (stuff m)).testBit j = false

/-- R51, R53: the frames of R71 are the words of the opcode table's frame rows. -/
def Obligations.FramesAreTheTablesWords : Prop :=
  (∀ (s a : Byte) (r : BitVec 7),
    frame4 s a (readRegByte r) = encode (.frameReadRequest s a r (crc8 [s, a, readRegByte r]))) ∧
  (∀ (s a : Byte) (r : BitVec 7) (v : Word),
    frame8 s a (writeRegByte r) v = encode (.frameWriteRequest s a r v (crc8 (payload7 s a (writeRegByte r) v)))) ∧
  ∀ (s a e : Byte) (v : Word), frame8 s a e v = encode (.frameReadResponse s a e v (crc8 (payload7 s a e v)))

/-- R71: both frame functions are injective. -/
def Obligations.FramesAreInjective : Prop :=
  (∀ s a rb s' a' rb' : Byte, frame4 s a rb = frame4 s' a' rb' → s = s' ∧ a = a' ∧ rb = rb') ∧
  ∀ (s a rb s' a' rb' : Byte) (v v' : Word), frame8 s a rb v = frame8 s' a' rb' v' →
    s = s' ∧ a = a' ∧ rb = rb' ∧ v = v'

/-- R78: the acceptance test check by check. -/
def Obligations.DecoderAcceptsExactlyByTheSevenChecks : Prop :=
  ∀ (data : List Byte) (es ea erb : Byte) (v : Word),
    decodeResponse data es ea erb = some v ↔
      data.length = 10 ∧
      (∀ k, k < 8 → bitField (intLe data) (10 * k) (10 * k) = 0) ∧
      (∀ k, k < 8 → bitField (intLe data) (10 * k + 9) (10 * k + 9) = 1) ∧
      bitField (intLe data) 8 1 = es.toNat ∧
      bitField (intLe data) 18 11 = ea.toNat ∧
      bitField (intLe data) 28 21 = erb.toNat ∧
      bitField (intLe data) 78 71 =
        (crc8 ((List.range 7).map fun k =>
          BitVec.ofNat 8 (bitField (intLe data) (10 * k + 8) (10 * k + 1)))).toNat ∧
      v = extractValue (intLe data)

/-- R79 (a), (b), (e): a sequence is accepted with value v exactly when it is v's frame, and for one triple of
expected bytes only. -/
def Obligations.AcceptedSequencesAreExactlyTheFrames : Prop :=
  (∀ (data : List Byte) (es ea erb : Byte) (v : Word),
    decodeResponse data es ea erb = some v ↔ data = frame8 es ea erb v) ∧
  ∀ (data : List Byte) (es ea erb es' ea' erb' : Byte) (v v' : Word),
    decodeResponse data es ea erb = some v → decodeResponse data es' ea' erb' = some v' →
      es = es' ∧ ea = ea' ∧ erb = erb'

/-- R79 (c): flipping one of the 80 bits of an accepted frame gives "no value". -/
def Obligations.EverySingleBitCorruptionIsRefused : Prop :=
  ∀ (es ea erb : Byte) (v : Word) (k : Nat), k < 80 →
    decodeResponse (flipBit (frame8 es ea erb v) k) es ea erb = none

/-- R79 (a) at the block: ENCWR, its ten bytes copied into IBUF, EREG set to the register byte with the write bit,
DECRD: the value written comes back. -/
def Obligations.EncwrThenDecrdReturnsTheValue : Prop :=
  ∀ s : State, s.buffersOk →
    ∃ t u, exec .encwr s = .next t ∧
      exec .decrd { t.loadInput (t.obuf.readSeq 0 10) with ereg := writeRegByte t.reg } = .next u ∧
      u.rvalid = 1 ∧ u.rval = s.wval ∧ u.err = 0

/-! ### The quantizer -/

/-- R81, R82, R83, R88: the integer form computes `clamp(round(32 * I * (R + 0.020) * sqrt(2) / gain - 1), 0, 31)` in
exact real arithmetic, rounding half up, for every operand of the block. -/
def Obligations.QuantizeIsTheRealFormula : Prop :=
  ∀ i r : BitVec 16,
    isClampedRound (32 * ((i.toNat : ℝ) / 1000) * ((r.toNat : ℝ) / 1000 + 20 / 1000) * √2 / (32 / 100) - 1)
      ((quantize i r 0).toNat : ℤ) ∧
    isClampedRound (32 * ((i.toNat : ℝ) / 1000) * ((r.toNat : ℝ) / 1000 + 20 / 1000) * √2 / (18 / 100) - 1)
      ((quantize i r 1).toNat : ℤ)

/-- R82: the tie rule of `round` cannot be observed: rounding half down, clamped, gives the same code, for every operand
of the block in both modes. -/
def Obligations.RoundingHalfDownGivesTheSameCode : Prop :=
  ∀ i r : BitVec 16,
    ((quantize i r 0).toNat : ℤ) = max 0 (min 31
      ⌈32 * ((i.toNat : ℝ) / 1000) * ((r.toNat : ℝ) / 1000 + 20 / 1000) * √2 / (32 / 100) - 1 - 1 / 2⌉) ∧
    ((quantize i r 1).toNat : ℤ) = max 0 (min 31
      ⌈32 * ((i.toNat : ℝ) / 1000) * ((r.toNat : ℝ) / 1000 + 20 / 1000) * √2 / (18 / 100) - 1 - 1 / 2⌉)

/-- R83: the code is the largest n of 1..31 that is reached, or 0. -/
def Obligations.CodeIsTheLargestReachedLevel : Prop :=
  ∀ (i r : BitVec 16) (hs : BitVec 1) (n : Nat),
    (quantize i r hs).toNat = n ↔
      n ≤ 31 ∧ (n = 0 ∨ reach n (i.toNat * (r.toNat + 20)) hs = true) ∧
        ∀ k, n < k → k ≤ 31 → reach k (i.toNat * (r.toNat + 20)) hs = false

/-- R87 (b), (c): the code never falls as current or resistance rises, and the high-mode code is at least the low. -/
def Obligations.CodesAreMonotone : Prop :=
  ∀ (i i' r r' : BitVec 16) (hs : BitVec 1), i.toNat ≤ i'.toNat → r.toNat ≤ r'.toNat →
    (quantize i r hs).toNat ≤ (quantize i' r' hs).toNat ∧ (quantize i r 0).toNat ≤ (quantize i r 1).toNat

/-- R87 (d), (e), (f): the run current alone decides the mode, QHOLD is at most QRUN, a high-mode code at most 28. -/
def Obligations.QselKeepsItsCodesInRange : Prop :=
  ∀ s : State, s.ihold.toNat ≤ s.irun.toNat →
    ∃ t, exec .qsel s = .next t ∧ t.err = 0 ∧ t.qhold.toNat ≤ t.qrun.toNat ∧
      (t.qhs = 1 ↔ (quantize s.irun s.rsense 0).toNat < 16) ∧ (t.qhs = 1 → t.qrun.toNat ≤ 28)

/-! ### The host session -/

/-- R104, R105: a read sends the same request at most five times and returns the value of the first reply that
decodes, or fails after five. That the failure also names the node, and that a transport with nothing left returns no
byte, are the model's choices (log entries 12 and 11). -/
def Obligations.ReadReturnsTheFirstAnswerOfFive : Prop :=
  ∀ (p : LinkParams) (reg : BitVec 7) (z : Session), z.debug = false → z.block.buffersOk →
    (∀ (k : Nat) (v : Word), k < 5 → (∀ j, j < k → answer p reg z j = none) → answer p reg z k = some v →
      ∃ b : State, b.buffersOk ∧
        readRegister p reg z = ({ z with block := b, replies := z.replies.drop (k + 1) }, .ok v) ∧
        b.sent = z.block.sent ++ List.replicate (k + 1) (readFrame p z.node reg)) ∧
    ((∀ j, j < 5 → answer p reg z j = none) →
      ∃ b : State, b.buffersOk ∧
        readRegister p reg z = ({ z with block := b, replies := z.replies.drop 5 }, .error ⟨reg, 5, z.node⟩) ∧
        b.sent = z.block.sent ++ List.replicate 5 (readFrame p z.node reg))

/-- R106, R107: with the counter known as c and each re-read answered within its own five attempts, a write is
confirmed by the first re-read of c + 1 modulo 256 among at most five; five re-reads of anything else fail it, the
mirror unchanged. Each attempt sends the write request and then one read request for each attempt of its re-read. That
the failure also names the node is the model's choice (log entry 12). -/
def Obligations.WriteIsConfirmedByTheCounter : Prop :=
  ∀ (p : LinkParams) (reg : BitVec 7) (value : Word) (z : Session) (c : Byte) (gs : List (List (List Byte) × Word))
    (rest : List (List Byte)), z.debug = false → z.block.buffersOk → z.ifcnt = some c →
    z.replies = gs.flatMap (counterReplies p) ++ rest → (∀ g ∈ gs, answeredInTime p g) →
    (∀ (us : List (List (List Byte) × Word)) (u : List (List Byte) × Word), gs = us ++ [u] → gs.length ≤ 5 →
      (∀ g ∈ us, g.2.setWidth 8 ≠ c + 1) → u.2.setWidth 8 = c + 1 →
      ∃ b : State, b.buffersOk ∧
        writeRegister p reg value z = ({ z with block := b, ifcnt := some (c + 1), replies := rest }, .ok ()) ∧
        b.sent = z.block.sent ++ gs.flatMap (attemptFrames p z.node reg value)) ∧
    (gs.length = 5 → (∀ g ∈ gs, g.2.setWidth 8 ≠ c + 1) →
      ∃ b : State, b.buffersOk ∧
        writeRegister p reg value z = ({ z with block := b, replies := rest }, .error ⟨reg, 5, z.node⟩) ∧
        b.sent = z.block.sent ++ gs.flatMap (attemptFrames p z.node reg value))

/-- R106: a counter re-read that fails inside the write loop ends the write at once, at whichever of the five attempts
it falls, with no further send. That the write's failure is the re-read's own, which names the counter's address and
the node, is the model's choice (log entry 12), as is that a transport with nothing left returns no byte (log
entry 11). -/
def Obligations.FailedCounterReadEndsTheWrite : Prop :=
  ∀ (p : LinkParams) (reg : BitVec 7) (value : Word) (z : Session) (c : Byte) (gs : List (List (List Byte) × Word))
    (rest : List (List Byte)), z.debug = false → z.block.buffersOk → z.ifcnt = some c →
    z.replies = gs.flatMap (counterReplies p) ++ rest → (∀ g ∈ gs, answeredInTime p g) →
    gs.length < 5 → (∀ g ∈ gs, g.2.setWidth 8 ≠ c + 1) →
    (∀ j, j < 5 → decodeResponse (rest.getD j []) p.respSync p.respAddr (p.respWbit ++ p.ifcntAddr) = none) →
    ∃ b : State, b.buffersOk ∧
      writeRegister p reg value z = ({ z with block := b, replies := rest.drop 5 }, .error ⟨p.ifcntAddr, 5, z.node⟩) ∧
      b.sent = z.block.sent ++ gs.flatMap (attemptFrames p z.node reg value) ++
        writeFrame p z.node reg value :: List.replicate 5 (readFrame p z.node p.ifcntAddr)

/-- R106: an unknown counter is read once before the first attempt, and a read of it that fails ends the write. That
the write's failure is then that read's own, register name included, is the model's choice (log entry 12). -/
def Obligations.UnknownCounterIsReadBeforeTheFirstAttempt : Prop :=
  ∀ (p : LinkParams) (reg : BitVec 7) (value : Word) (z z' : Session), z.debug = false → z.ifcnt = none →
    (∀ w, readRegister p p.ifcntAddr z = (z', .ok w) →
      writeRegister p reg value z = writeRegister p reg value { z' with ifcnt := some (w.setWidth 8) }) ∧
    ∀ f, readRegister p p.ifcntAddr z = (z', .error f) → writeRegister p reg value z = (z', .error f)

/-- R111: the cached registers are pushed one after another, each once, in the list's order, and the failures reported
are the pushes' own. What follows a failure is the caller's decision (R108), which the model takes as an argument (log
entry 14): with `abort` the sequence ends there, without it the rest is pushed. -/
def Obligations.ConnectPushesTheCacheInOrder : Prop :=
  ∀ (p : LinkParams) (abort : Bool) (reg : BitVec 7) (value : Word) (front back : List (BitVec 7 × Word))
    (z z' : Session),
    connect p abort [] z = (z, []) ∧
    (writeRegister p reg value z = (z', .ok ()) → connect p abort [(reg, value)] z = (z', [])) ∧
    (∀ f, writeRegister p reg value z = (z', .error f) → connect p abort [(reg, value)] z = (z', [f])) ∧
    ((connect p true front z).2 = [] →
      connect p true (front ++ back) z = connect p true back (connect p true front z).1) ∧
    ((connect p true front z).2 ≠ [] → connect p true (front ++ back) z = connect p true front z) ∧
    connect p false (front ++ back) z =
      ((connect p false back (connect p false front z).1).1,
        (connect p false front z).2 ++ (connect p false back (connect p false front z).1).2)

/-- R112: at most 5 request frames for a read and at most 35 for a write, whatever the transport returns. -/
def Obligations.SessionsSendBoundedlyManyFrames : Prop :=
  ∀ (p : LinkParams) (reg : BitVec 7) (value : Word) (z : Session),
    (readRegister p reg z).1.block.sent.length ≤ z.block.sent.length + 5 ∧
    (writeRegister p reg value z).1.block.sent.length ≤ z.block.sent.length + 35

/-- R109: in debug mode every read is the fixed value, every write a no-op, nothing is sent, nothing fails. -/
def Obligations.DebugModeTouchesNothing : Prop :=
  ∀ (p : LinkParams) (reg : BitVec 7) (value : Word) (abort : Bool) (cache : List (BitVec 7 × Word)) (z : Session),
    z.debug = true →
    readRegister p reg z = (z, .ok p.debugReadValue) ∧ writeRegister p reg value z = (z, .ok ()) ∧
      connect p abort cache z = (z, [])
end

