-- ==== Sys2Proof/Laws/Bytes.lean ====
section
/-! SUPPORT. Byte sequences and the integers they spell: the two directions undo each other. -/

namespace Sys2Proof

@[simp] theorem length_bytesLe (v n : Nat) : (bytesLe v n).length = n := by simp [bytesLe]

@[simp] theorem length_valueBytes (v : Word) : (valueBytes v).length = 4 := rfl

theorem getElem_bytesLe (v n i : Nat) (h : i < (bytesLe v n).length) :
    (bytesLe v n)[i] = BitVec.ofNat 8 (v >>> (8 * i)) := by
  simp [bytesLe]

theorem intLe_lt (s : List Byte) : intLe s < 256 ^ s.length := by
  induction s with
  | nil => simp [intLe]
  | cons b s ih =>
    have := b.isLt
    simp only [intLe, List.length_cons, pow_succ]
    omega

/-- One byte taken off the low end. -/
theorem bytesLe_succ (v n : Nat) : bytesLe v (n + 1) = BitVec.ofNat 8 v :: bytesLe (v / 256) n := by
  refine List.ext_getElem (by simp) fun i h1 h2 => ?_
  rw [getElem_bytesLe]
  cases i with
  | zero => simp
  | succ i =>
    simp only [List.getElem_cons_succ, getElem_bytesLe, Nat.shiftRight_eq_div_pow, Nat.div_div_eq_div_mul]
    congr 2
    rw [mul_add, pow_add, mul_comm]
    rfl

/-- The integer of the bytes of v is v, cut to the bytes written. -/
theorem intLe_bytesLe (v n : Nat) : intLe (bytesLe v n) = v % 256 ^ n := by
  induction n generalizing v with
  | zero => simp [bytesLe, intLe, Nat.mod_one]
  | succ n ih =>
    rw [bytesLe_succ, intLe, ih, pow_succ']
    rw [Nat.mod_mul, BitVec.toNat_ofNat]
    ring

/-- The bytes of the integer of s are s. -/
theorem bytesLe_intLe (s : List Byte) : bytesLe (intLe s) s.length = s := by
  induction s with
  | nil => rfl
  | cons b s ih =>
    rw [List.length_cons, bytesLe_succ, intLe]
    have hb := b.isLt
    have h1 : (b.toNat + intLe s * 256) / 256 = intLe s := by omega
    rw [h1, ih]
    congr 1
    apply BitVec.eq_of_toNat_eq
    rw [BitVec.toNat_ofNat]
    omega

end Sys2Proof
end

