-- ==== Sys2Proof/Laws/Crc.lean ====
section
/-! SUPPORT. The checksum byte by byte. -/

namespace Sys2Proof.Machine

@[simp] theorem crc8_nil : crc8 [] = 0 := rfl

/-- One more byte at the end is one more turn of the register. -/
theorem crc8_concat (s : List Byte) (b : Byte) : crc8 (s ++ [b]) = crcByte (crc8 s) b := by
  simp [crc8, List.foldl_append]

/-- The eight rounds take the bits of the byte from bit 0 up. -/
theorem crcByte_eq (crc b : Byte) :
    crcByte crc b = (List.range 8).foldl (fun c i => crcBit c (b.getLsbD i)) crc := by
  simp [crcByte, crcRounds, List.range_succ]

end Sys2Proof.Machine
end

