-- ==== Sys2Proof/Laws/Framing.lean ====
section
/-! SUPPORT. The stream of a payload and the lengths of frames. -/

namespace Sys2Proof.Machine

theorem stuffLoop_pos (m : List Byte) (out pos : Nat) : (stuffLoop m out pos).2 = pos + 10 * m.length := by
  induction m generalizing out pos with
  | nil => rfl
  | cons d m ih =>
    rw [stuffLoop, ih, List.length_cons]
    omega

/-- `stuff` is the little-endian byte image of the stream integer (R47). -/
theorem stuff_eq (m : List Byte) : stuff m = bytesLe (streamInt m) ((10 * m.length + 7) / 8) := by
  simp only [stuff, streamInt, stuffLoop_pos, Nat.zero_add]

@[simp] theorem length_stuff (m : List Byte) : (stuff m).length = (10 * m.length + 7) / 8 := by
  rw [stuff_eq, length_bytesLe]

@[simp] theorem length_payload7 (s a rb : Byte) (v : Word) : (payload7 s a rb v).length = 7 := rfl

@[simp] theorem length_frame4 (s a rb : Byte) : (frame4 s a rb).length = Config.rdWire := by
  simp [frame4, frameOf, payload3]

@[simp] theorem length_frame8 (s a rb : Byte) (v : Word) : (frame8 s a rb v).length = Config.wrWire := by
  simp [frame8, frameOf]

/-- A response decodes to a value only when it is the frame of that value, byte for byte (R76). -/
theorem decodeResponse_eq_some {data : List Byte} {es ea erb : Byte} {v : Word}
    (h : decodeResponse data es ea erb = some v) : data = frame8 es ea erb v := by
  unfold decodeResponse at h
  split at h
  · simp only at h
    split at h
    · next hd => rw [← Option.some.inj h, ← hd]
    · exact absurd h (by simp)
  · exact absurd h (by simp)

end Sys2Proof.Machine
end

