-- ==== Sys2Proof/Laws/Memory.lean ====
section
/-! SUPPORT. The two buffers: a read after a write, what a write leaves alone, and that every buffer operation keeps
the canonical form and the capacity. -/

namespace Sys2Proof.Machine

@[simp] theorem Memory.read_nil (k : Nat) : Memory.read [] k = 0 := rfl

theorem Memory.read_pair (i : Nat) (b : Byte) (m : Memory) (k : Nat) :
    Memory.read ((i, b) :: m) k = if k = i then b else m.read k := rfl

theorem Memory.wf_pair (i : Nat) (b : Byte) (m : Memory) :
    Memory.wf ((i, b) :: m) = true ↔ b ≠ 0 ∧ (∀ c ∈ m, i < c.1) ∧ m.wf = true := by
  simp [Memory.wf, and_assoc]

theorem Memory.within_iff (cap : Nat) (m : Memory) : m.within cap = true ↔ ∀ c ∈ m, c.1 < cap := by
  simp [Memory.within]

/-- An index below every listed one reads 0. -/
theorem Memory.read_of_lt {m : Memory} {k : Nat} (h : ∀ c ∈ m, k < c.1) : m.read k = 0 := by
  induction m with
  | nil => rfl
  | cons p m ih =>
    have hk : k ≠ p.1 := (h p (by simp)).ne
    rw [Memory.read_pair, if_neg hk, ih fun c hc => h c (by simp [hc])]

/-- An index from the capacity up reads 0. -/
theorem Memory.read_of_within {m : Memory} {cap k : Nat} (h : m.within cap = true) (hk : cap ≤ k) : m.read k = 0 := by
  rw [Memory.within_iff] at h
  induction m with
  | nil => rfl
  | cons p m ih =>
    have hp : p.1 < cap := h p (by simp)
    rw [Memory.read_pair, if_neg (by omega), ih fun c hc => h c (by simp [hc])]

theorem Memory.mem_cons {k : Nat} {b : Byte} {m : Memory} {c : Host.Cell} (h : c ∈ Memory.cons k b m) :
    c = (k, b) ∨ c ∈ m := by
  unfold Memory.cons at h
  split at h
  · exact .inr h
  · simpa using h

theorem Memory.wf_cons {k : Nat} {b : Byte} {m : Memory} (hm : m.wf = true) (h : ∀ c ∈ m, k < c.1) :
    (Memory.cons k b m).wf = true := by
  unfold Memory.cons
  split
  · exact hm
  · exact (Memory.wf_pair k b m).2 ⟨‹_›, h, hm⟩

theorem Memory.read_cons {k : Nat} {b : Byte} {m : Memory} (h : ∀ c ∈ m, k < c.1) (j : Nat) :
    (Memory.cons k b m).read j = if j = k then b else m.read j := by
  unfold Memory.cons
  split
  · next hb =>
    split
    · next hj => rw [hj, hb, Memory.read_of_lt h]
    · rfl
  · rfl

/-- Every cell after a write is the one written or was there before. -/
theorem Memory.mem_write {m : Memory} {k : Nat} {b : Byte} {c : Host.Cell} (h : c ∈ m.write k b) :
    c = (k, b) ∨ c ∈ m := by
  induction m with
  | nil => exact Memory.mem_cons h
  | cons p m ih =>
    unfold Memory.write at h
    split at h
    · exact Memory.mem_cons h
    · split at h
      · exact (Memory.mem_cons h).imp_right (List.mem_cons_of_mem _)
      · rcases List.mem_cons.1 h with rfl | h
        · simp
        · exact (ih h).imp_right (List.mem_cons_of_mem _)

theorem Memory.wf_write {m : Memory} (hm : m.wf = true) (k : Nat) (b : Byte) : (m.write k b).wf = true := by
  induction m with
  | nil => exact Memory.wf_cons rfl (by simp)
  | cons p m ih =>
    obtain ⟨hp, hlt, hw⟩ := (Memory.wf_pair p.1 p.2 m).1 hm
    unfold Memory.write
    split
    · next hk =>
      exact Memory.wf_cons hm fun c hc => by
        rcases List.mem_cons.1 hc with rfl | hc
        · exact hk
        · exact hk.trans (hlt c hc)
    · split
      · next hk => exact Memory.wf_cons hw (hk ▸ hlt)
      · next h1 h2 =>
        refine (Memory.wf_pair _ _ _).2 ⟨hp, fun c hc => ?_, ih hw⟩
        rcases Memory.mem_write hc with rfl | hc
        · exact lt_of_le_of_ne (not_lt.1 h1) (Ne.symm h2)
        · exact hlt c hc

theorem Memory.within_write {m : Memory} {cap : Nat} (hm : m.within cap = true) {k : Nat} (hk : k < cap) (b : Byte) :
    (m.write k b).within cap = true := by
  rw [Memory.within_iff] at hm ⊢
  intro c hc
  rcases Memory.mem_write hc with rfl | hc
  · exact hk
  · exact hm c hc

/-- A read after a write: the byte written at that index, every other byte as before. -/
theorem Memory.read_write {m : Memory} (hm : m.wf = true) (k : Nat) (b : Byte) (j : Nat) :
    (m.write k b).read j = if j = k then b else m.read j := by
  induction m with
  | nil => exact Memory.read_cons (by simp) j
  | cons p m ih =>
    obtain ⟨-, hlt, hw⟩ := (Memory.wf_pair p.1 p.2 m).1 hm
    unfold Memory.write
    split
    · next hk =>
      refine Memory.read_cons (fun c hc => ?_) j
      rcases List.mem_cons.1 hc with rfl | hc
      · exact hk
      · exact hk.trans (hlt c hc)
    · split
      · next hk =>
        rw [Memory.read_cons (hk ▸ hlt), Memory.read_pair, ← hk]
        split <;> rfl
      · next h1 h2 =>
        rw [Memory.read_pair, Memory.read_pair, ih hw]
        split_ifs <;> first | rfl | omega

theorem Memory.wf_writeSeq {m : Memory} (hm : m.wf = true) (i : Nat) (s : List Byte) : (m.writeSeq i s).wf = true := by
  induction s generalizing m i with
  | nil => exact hm
  | cons b s ih => exact ih (Memory.wf_write hm i b) (i + 1)

theorem Memory.within_writeSeq {m : Memory} {cap : Nat} (hm : m.within cap = true) (i : Nat) (s : List Byte)
    (h : i + s.length ≤ cap) : (m.writeSeq i s).within cap = true := by
  induction s generalizing m i with
  | nil => exact hm
  | cons b s ih =>
    simp only [List.length_cons] at h
    exact ih (Memory.within_write hm (by omega) b) (i + 1) (by omega)

/-- A read after a sequence write: the sequence's byte inside it, every other byte as before. -/
theorem Memory.read_writeSeq {m : Memory} (hm : m.wf = true) (i : Nat) (s : List Byte) (j : Nat) :
    (m.writeSeq i s).read j = if i ≤ j ∧ j < i + s.length then s.getD (j - i) 0 else m.read j := by
  induction s generalizing m i with
  | nil =>
    rw [if_neg (by simp)]
    rfl
  | cons b s ih =>
    have h := ih (Memory.wf_write hm i b) (i + 1)
    rw [Memory.read_write hm] at h
    refine Eq.trans (by rfl) (h.trans ?_)
    simp only [List.length_cons]
    rcases Nat.lt_trichotomy j i with hj | rfl | hj
    · rw [if_neg (by omega), if_neg (by omega), if_neg (by omega)]
    · rw [if_neg (by omega), if_pos rfl, if_pos (by omega)]
      simp
    · obtain ⟨d, rfl⟩ : ∃ d, j = i + 1 + d := ⟨j - (i + 1), by omega⟩
      have h1 : i + 1 + d - (i + 1) = d := by omega
      have h2 : i + 1 + d - i = d + 1 := by omega
      simp only [h1, h2, List.getD_cons_succ]
      split_ifs <;> first | rfl | omega

@[simp] theorem Memory.length_readSeq (m : Memory) (i n : Nat) : (m.readSeq i n).length = n := by
  simp [Memory.readSeq]

theorem Memory.getElem_readSeq (m : Memory) (i n k : Nat) (h : k < (m.readSeq i n).length) :
    (m.readSeq i n)[k] = m.read (i + k) := by
  simp [Memory.readSeq]

/-- Reading a sequence back gives it. -/
theorem Memory.readSeq_writeSeq {m : Memory} (hm : m.wf = true) (i : Nat) (s : List Byte) :
    (m.writeSeq i s).readSeq i s.length = s := by
  refine List.ext_getElem (by simp) fun k h1 h2 => ?_
  rw [Memory.getElem_readSeq, Memory.read_writeSeq hm, if_pos (by omega)]
  simp [h2]

/-- Canonical memories that read alike are equal. -/
theorem Memory.eq_of_read {m n : Memory} (hm : m.wf = true) (hn : n.wf = true) (h : ∀ k, m.read k = n.read k) :
    m = n := by
  induction m generalizing n with
  | nil =>
    cases n with
    | nil => rfl
    | cons q n =>
      obtain ⟨hq, -, -⟩ := (Memory.wf_pair q.1 q.2 n).1 hn
      have := h q.1
      rw [Memory.read_nil, Memory.read_pair, if_pos rfl] at this
      exact absurd this.symm hq
  | cons p m ih =>
    obtain ⟨hp, hpl, hpw⟩ := (Memory.wf_pair p.1 p.2 m).1 hm
    cases n with
    | nil =>
      have := h p.1
      rw [Memory.read_nil, Memory.read_pair, if_pos rfl] at this
      exact absurd this hp
    | cons q n =>
      obtain ⟨hq, hql, hqw⟩ := (Memory.wf_pair q.1 q.2 n).1 hn
      have first : ∀ (a b : Host.Cell) (r : Memory), a.2 ≠ 0 → (∀ c ∈ r, b.1 < c.1) → a.1 < b.1 →
          Memory.read ((b.1, b.2) :: r) a.1 = 0 := by
        intro a b r _ hr hab
        refine Memory.read_of_lt fun c hc => ?_
        rcases List.mem_cons.1 hc with rfl | hc
        · exact hab
        · exact hab.trans (hr c hc)
      have hpq : p.1 = q.1 := by
        rcases Nat.lt_trichotomy p.1 q.1 with hlt | heq | hgt
        · have := h p.1
          rw [Memory.read_pair, if_pos rfl, first p q n hp hql hlt] at this
          exact absurd this hp
        · exact heq
        · have := h q.1
          rw [Memory.read_pair q.1 q.2 n, if_pos rfl, first q p m hq hpl hgt] at this
          exact absurd this.symm hq
      have hb : p.2 = q.2 := by
        have := h p.1
        rwa [Memory.read_pair, if_pos rfl, Memory.read_pair, if_pos hpq] at this
      have htail : m = n := ih hpw hqw fun k => by
        by_cases hk : k = p.1
        · rw [Memory.read_of_lt (hk ▸ hpl), Memory.read_of_lt (by rw [hk, hpq]; exact hql)]
        · have := h k
          rwa [Memory.read_pair, if_neg hk, Memory.read_pair, if_neg (by rwa [← hpq])] at this
      rw [htail, Prod.ext hpq hb]

end Sys2Proof.Machine
end

