-- ==== Sys2Proof/Laws/State.lean ====
section
/-! SUPPORT. One lemma per field per named update of State, so that no later proof unfolds a record update. -/

namespace Sys2Proof.Machine

/-! `State.done` -/

@[simp] theorem State.done_sync (s : State) : (s.done).sync = s.sync := rfl
@[simp] theorem State.done_addr (s : State) : (s.done).addr = s.addr := rfl
@[simp] theorem State.done_reg (s : State) : (s.done).reg = s.reg := rfl
@[simp] theorem State.done_ereg (s : State) : (s.done).ereg = s.ereg := rfl
@[simp] theorem State.done_wval (s : State) : (s.done).wval = s.wval := rfl
@[simp] theorem State.done_ilen (s : State) : (s.done).ilen = s.ilen := rfl
@[simp] theorem State.done_irun (s : State) : (s.done).irun = s.irun := rfl
@[simp] theorem State.done_ihold (s : State) : (s.done).ihold = s.ihold := rfl
@[simp] theorem State.done_rsense (s : State) : (s.done).rsense = s.rsense := rfl
@[simp] theorem State.done_hsin (s : State) : (s.done).hsin = s.hsin := rfl
@[simp] theorem State.done_crc (s : State) : (s.done).crc = s.crc := rfl
@[simp] theorem State.done_olen (s : State) : (s.done).olen = s.olen := rfl
@[simp] theorem State.done_rval (s : State) : (s.done).rval = s.rval := rfl
@[simp] theorem State.done_rvalid (s : State) : (s.done).rvalid = s.rvalid := rfl
@[simp] theorem State.done_qrun (s : State) : (s.done).qrun = s.qrun := rfl
@[simp] theorem State.done_qhold (s : State) : (s.done).qhold = s.qhold := rfl
@[simp] theorem State.done_qhs (s : State) : (s.done).qhs = s.qhs := rfl
@[simp] theorem State.done_err (s : State) : (s.done).err = 0 := rfl
@[simp] theorem State.done_ibuf (s : State) : (s.done).ibuf = s.ibuf := rfl
@[simp] theorem State.done_obuf (s : State) : (s.done).obuf = s.obuf := rfl
@[simp] theorem State.done_pending (s : State) : (s.done).pending = s.pending := rfl
@[simp] theorem State.done_sent (s : State) : (s.done).sent = s.sent := rfl

/-! `State.acceptValue` -/

@[simp] theorem State.acceptValue_sync (v : Word) (s : State) : (s.acceptValue v).sync = s.sync := rfl
@[simp] theorem State.acceptValue_addr (v : Word) (s : State) : (s.acceptValue v).addr = s.addr := rfl
@[simp] theorem State.acceptValue_reg (v : Word) (s : State) : (s.acceptValue v).reg = s.reg := rfl
@[simp] theorem State.acceptValue_ereg (v : Word) (s : State) : (s.acceptValue v).ereg = s.ereg := rfl
@[simp] theorem State.acceptValue_wval (v : Word) (s : State) : (s.acceptValue v).wval = s.wval := rfl
@[simp] theorem State.acceptValue_ilen (v : Word) (s : State) : (s.acceptValue v).ilen = s.ilen := rfl
@[simp] theorem State.acceptValue_irun (v : Word) (s : State) : (s.acceptValue v).irun = s.irun := rfl
@[simp] theorem State.acceptValue_ihold (v : Word) (s : State) : (s.acceptValue v).ihold = s.ihold := rfl
@[simp] theorem State.acceptValue_rsense (v : Word) (s : State) : (s.acceptValue v).rsense = s.rsense := rfl
@[simp] theorem State.acceptValue_hsin (v : Word) (s : State) : (s.acceptValue v).hsin = s.hsin := rfl
@[simp] theorem State.acceptValue_crc (v : Word) (s : State) : (s.acceptValue v).crc = s.crc := rfl
@[simp] theorem State.acceptValue_olen (v : Word) (s : State) : (s.acceptValue v).olen = s.olen := rfl
@[simp] theorem State.acceptValue_rval (v : Word) (s : State) : (s.acceptValue v).rval = v := rfl
@[simp] theorem State.acceptValue_rvalid (v : Word) (s : State) : (s.acceptValue v).rvalid = 1 := rfl
@[simp] theorem State.acceptValue_qrun (v : Word) (s : State) : (s.acceptValue v).qrun = s.qrun := rfl
@[simp] theorem State.acceptValue_qhold (v : Word) (s : State) : (s.acceptValue v).qhold = s.qhold := rfl
@[simp] theorem State.acceptValue_qhs (v : Word) (s : State) : (s.acceptValue v).qhs = s.qhs := rfl
@[simp] theorem State.acceptValue_err (v : Word) (s : State) : (s.acceptValue v).err = s.err := rfl
@[simp] theorem State.acceptValue_ibuf (v : Word) (s : State) : (s.acceptValue v).ibuf = s.ibuf := rfl
@[simp] theorem State.acceptValue_obuf (v : Word) (s : State) : (s.acceptValue v).obuf = s.obuf := rfl
@[simp] theorem State.acceptValue_pending (v : Word) (s : State) : (s.acceptValue v).pending = s.pending := rfl
@[simp] theorem State.acceptValue_sent (v : Word) (s : State) : (s.acceptValue v).sent = s.sent := rfl

/-! `State.setQhs` -/

@[simp] theorem State.setQhs_sync (hs : BitVec 1) (s : State) : (s.setQhs hs).sync = s.sync := rfl
@[simp] theorem State.setQhs_addr (hs : BitVec 1) (s : State) : (s.setQhs hs).addr = s.addr := rfl
@[simp] theorem State.setQhs_reg (hs : BitVec 1) (s : State) : (s.setQhs hs).reg = s.reg := rfl
@[simp] theorem State.setQhs_ereg (hs : BitVec 1) (s : State) : (s.setQhs hs).ereg = s.ereg := rfl
@[simp] theorem State.setQhs_wval (hs : BitVec 1) (s : State) : (s.setQhs hs).wval = s.wval := rfl
@[simp] theorem State.setQhs_ilen (hs : BitVec 1) (s : State) : (s.setQhs hs).ilen = s.ilen := rfl
@[simp] theorem State.setQhs_irun (hs : BitVec 1) (s : State) : (s.setQhs hs).irun = s.irun := rfl
@[simp] theorem State.setQhs_ihold (hs : BitVec 1) (s : State) : (s.setQhs hs).ihold = s.ihold := rfl
@[simp] theorem State.setQhs_rsense (hs : BitVec 1) (s : State) : (s.setQhs hs).rsense = s.rsense := rfl
@[simp] theorem State.setQhs_hsin (hs : BitVec 1) (s : State) : (s.setQhs hs).hsin = s.hsin := rfl
@[simp] theorem State.setQhs_crc (hs : BitVec 1) (s : State) : (s.setQhs hs).crc = s.crc := rfl
@[simp] theorem State.setQhs_olen (hs : BitVec 1) (s : State) : (s.setQhs hs).olen = s.olen := rfl
@[simp] theorem State.setQhs_rval (hs : BitVec 1) (s : State) : (s.setQhs hs).rval = s.rval := rfl
@[simp] theorem State.setQhs_rvalid (hs : BitVec 1) (s : State) : (s.setQhs hs).rvalid = s.rvalid := rfl
@[simp] theorem State.setQhs_qrun (hs : BitVec 1) (s : State) : (s.setQhs hs).qrun = s.qrun := rfl
@[simp] theorem State.setQhs_qhold (hs : BitVec 1) (s : State) : (s.setQhs hs).qhold = s.qhold := rfl
@[simp] theorem State.setQhs_qhs (hs : BitVec 1) (s : State) : (s.setQhs hs).qhs = hs := rfl
@[simp] theorem State.setQhs_err (hs : BitVec 1) (s : State) : (s.setQhs hs).err = s.err := rfl
@[simp] theorem State.setQhs_ibuf (hs : BitVec 1) (s : State) : (s.setQhs hs).ibuf = s.ibuf := rfl
@[simp] theorem State.setQhs_obuf (hs : BitVec 1) (s : State) : (s.setQhs hs).obuf = s.obuf := rfl
@[simp] theorem State.setQhs_pending (hs : BitVec 1) (s : State) : (s.setQhs hs).pending = s.pending := rfl
@[simp] theorem State.setQhs_sent (hs : BitVec 1) (s : State) : (s.setQhs hs).sent = s.sent := rfl

/-! `State.putResult` -/

@[simp] theorem State.putResult_sync (w : List Byte) (s : State) : (s.putResult w).sync = s.sync := rfl
@[simp] theorem State.putResult_addr (w : List Byte) (s : State) : (s.putResult w).addr = s.addr := rfl
@[simp] theorem State.putResult_reg (w : List Byte) (s : State) : (s.putResult w).reg = s.reg := rfl
@[simp] theorem State.putResult_ereg (w : List Byte) (s : State) : (s.putResult w).ereg = s.ereg := rfl
@[simp] theorem State.putResult_wval (w : List Byte) (s : State) : (s.putResult w).wval = s.wval := rfl
@[simp] theorem State.putResult_ilen (w : List Byte) (s : State) : (s.putResult w).ilen = s.ilen := rfl
@[simp] theorem State.putResult_irun (w : List Byte) (s : State) : (s.putResult w).irun = s.irun := rfl
@[simp] theorem State.putResult_ihold (w : List Byte) (s : State) : (s.putResult w).ihold = s.ihold := rfl
@[simp] theorem State.putResult_rsense (w : List Byte) (s : State) : (s.putResult w).rsense = s.rsense := rfl
@[simp] theorem State.putResult_hsin (w : List Byte) (s : State) : (s.putResult w).hsin = s.hsin := rfl
@[simp] theorem State.putResult_crc (w : List Byte) (s : State) : (s.putResult w).crc = s.crc := rfl
@[simp] theorem State.putResult_olen (w : List Byte) (s : State) : (s.putResult w).olen = BitVec.ofNat 4 w.length := rfl
@[simp] theorem State.putResult_rval (w : List Byte) (s : State) : (s.putResult w).rval = s.rval := rfl
@[simp] theorem State.putResult_rvalid (w : List Byte) (s : State) : (s.putResult w).rvalid = s.rvalid := rfl
@[simp] theorem State.putResult_qrun (w : List Byte) (s : State) : (s.putResult w).qrun = s.qrun := rfl
@[simp] theorem State.putResult_qhold (w : List Byte) (s : State) : (s.putResult w).qhold = s.qhold := rfl
@[simp] theorem State.putResult_qhs (w : List Byte) (s : State) : (s.putResult w).qhs = s.qhs := rfl
@[simp] theorem State.putResult_err (w : List Byte) (s : State) : (s.putResult w).err = s.err := rfl
@[simp] theorem State.putResult_ibuf (w : List Byte) (s : State) : (s.putResult w).ibuf = s.ibuf := rfl
@[simp] theorem State.putResult_obuf (w : List Byte) (s : State) : (s.putResult w).obuf = s.obuf.writeSeq 0 (resultBytes w) := rfl
@[simp] theorem State.putResult_pending (w : List Byte) (s : State) : (s.putResult w).pending = s.pending := rfl
@[simp] theorem State.putResult_sent (w : List Byte) (s : State) : (s.putResult w).sent = s.sent := rfl

/-! `State.loadInput` -/

@[simp] theorem State.loadInput_sync (bs : List Byte) (s : State) : (s.loadInput bs).sync = s.sync := rfl
@[simp] theorem State.loadInput_addr (bs : List Byte) (s : State) : (s.loadInput bs).addr = s.addr := rfl
@[simp] theorem State.loadInput_reg (bs : List Byte) (s : State) : (s.loadInput bs).reg = s.reg := rfl
@[simp] theorem State.loadInput_ereg (bs : List Byte) (s : State) : (s.loadInput bs).ereg = s.ereg := rfl
@[simp] theorem State.loadInput_wval (bs : List Byte) (s : State) : (s.loadInput bs).wval = s.wval := rfl
@[simp] theorem State.loadInput_ilen (bs : List Byte) (s : State) : (s.loadInput bs).ilen = BitVec.ofNat 5 bs.length := rfl
@[simp] theorem State.loadInput_irun (bs : List Byte) (s : State) : (s.loadInput bs).irun = s.irun := rfl
@[simp] theorem State.loadInput_ihold (bs : List Byte) (s : State) : (s.loadInput bs).ihold = s.ihold := rfl
@[simp] theorem State.loadInput_rsense (bs : List Byte) (s : State) : (s.loadInput bs).rsense = s.rsense := rfl
@[simp] theorem State.loadInput_hsin (bs : List Byte) (s : State) : (s.loadInput bs).hsin = s.hsin := rfl
@[simp] theorem State.loadInput_crc (bs : List Byte) (s : State) : (s.loadInput bs).crc = s.crc := rfl
@[simp] theorem State.loadInput_olen (bs : List Byte) (s : State) : (s.loadInput bs).olen = s.olen := rfl
@[simp] theorem State.loadInput_rval (bs : List Byte) (s : State) : (s.loadInput bs).rval = s.rval := rfl
@[simp] theorem State.loadInput_rvalid (bs : List Byte) (s : State) : (s.loadInput bs).rvalid = s.rvalid := rfl
@[simp] theorem State.loadInput_qrun (bs : List Byte) (s : State) : (s.loadInput bs).qrun = s.qrun := rfl
@[simp] theorem State.loadInput_qhold (bs : List Byte) (s : State) : (s.loadInput bs).qhold = s.qhold := rfl
@[simp] theorem State.loadInput_qhs (bs : List Byte) (s : State) : (s.loadInput bs).qhs = s.qhs := rfl
@[simp] theorem State.loadInput_err (bs : List Byte) (s : State) : (s.loadInput bs).err = s.err := rfl
@[simp] theorem State.loadInput_ibuf (bs : List Byte) (s : State) : (s.loadInput bs).ibuf = s.ibuf.writeSeq 0 bs := rfl
@[simp] theorem State.loadInput_obuf (bs : List Byte) (s : State) : (s.loadInput bs).obuf = s.obuf := rfl
@[simp] theorem State.loadInput_pending (bs : List Byte) (s : State) : (s.loadInput bs).pending = s.pending := rfl
@[simp] theorem State.loadInput_sent (bs : List Byte) (s : State) : (s.loadInput bs).sent = s.sent := rfl

/-! `State.handOver` -/

@[simp] theorem State.handOver_sync (s : State) : (s.handOver).sync = s.sync := rfl
@[simp] theorem State.handOver_addr (s : State) : (s.handOver).addr = s.addr := rfl
@[simp] theorem State.handOver_reg (s : State) : (s.handOver).reg = s.reg := rfl
@[simp] theorem State.handOver_ereg (s : State) : (s.handOver).ereg = s.ereg := rfl
@[simp] theorem State.handOver_wval (s : State) : (s.handOver).wval = s.wval := rfl
@[simp] theorem State.handOver_ilen (s : State) : (s.handOver).ilen = s.ilen := rfl
@[simp] theorem State.handOver_irun (s : State) : (s.handOver).irun = s.irun := rfl
@[simp] theorem State.handOver_ihold (s : State) : (s.handOver).ihold = s.ihold := rfl
@[simp] theorem State.handOver_rsense (s : State) : (s.handOver).rsense = s.rsense := rfl
@[simp] theorem State.handOver_hsin (s : State) : (s.handOver).hsin = s.hsin := rfl
@[simp] theorem State.handOver_crc (s : State) : (s.handOver).crc = s.crc := rfl
@[simp] theorem State.handOver_olen (s : State) : (s.handOver).olen = s.olen := rfl
@[simp] theorem State.handOver_rval (s : State) : (s.handOver).rval = s.rval := rfl
@[simp] theorem State.handOver_rvalid (s : State) : (s.handOver).rvalid = s.rvalid := rfl
@[simp] theorem State.handOver_qrun (s : State) : (s.handOver).qrun = s.qrun := rfl
@[simp] theorem State.handOver_qhold (s : State) : (s.handOver).qhold = s.qhold := rfl
@[simp] theorem State.handOver_qhs (s : State) : (s.handOver).qhs = s.qhs := rfl
@[simp] theorem State.handOver_err (s : State) : (s.handOver).err = s.err := rfl
@[simp] theorem State.handOver_ibuf (s : State) : (s.handOver).ibuf = s.ibuf := rfl
@[simp] theorem State.handOver_obuf (s : State) : (s.handOver).obuf = s.obuf := rfl
@[simp] theorem State.handOver_pending (s : State) : (s.handOver).pending = s.pending := rfl
@[simp] theorem State.handOver_sent (s : State) : (s.handOver).sent = s.sent ++ [s.resultSeq] := rfl

/-! `resetBlock`: the host's own fields stay -/

@[simp] theorem resetBlock_sync (s : State) : (resetBlock s).sync = 0 := rfl
@[simp] theorem resetBlock_addr (s : State) : (resetBlock s).addr = 0 := rfl
@[simp] theorem resetBlock_reg (s : State) : (resetBlock s).reg = 0 := rfl
@[simp] theorem resetBlock_ereg (s : State) : (resetBlock s).ereg = 0 := rfl
@[simp] theorem resetBlock_wval (s : State) : (resetBlock s).wval = 0 := rfl
@[simp] theorem resetBlock_ilen (s : State) : (resetBlock s).ilen = 0 := rfl
@[simp] theorem resetBlock_irun (s : State) : (resetBlock s).irun = 0 := rfl
@[simp] theorem resetBlock_ihold (s : State) : (resetBlock s).ihold = 0 := rfl
@[simp] theorem resetBlock_rsense (s : State) : (resetBlock s).rsense = 0 := rfl
@[simp] theorem resetBlock_hsin (s : State) : (resetBlock s).hsin = 0 := rfl
@[simp] theorem resetBlock_crc (s : State) : (resetBlock s).crc = 0 := rfl
@[simp] theorem resetBlock_olen (s : State) : (resetBlock s).olen = 0 := rfl
@[simp] theorem resetBlock_rval (s : State) : (resetBlock s).rval = 0 := rfl
@[simp] theorem resetBlock_rvalid (s : State) : (resetBlock s).rvalid = 0 := rfl
@[simp] theorem resetBlock_qrun (s : State) : (resetBlock s).qrun = 0 := rfl
@[simp] theorem resetBlock_qhold (s : State) : (resetBlock s).qhold = 0 := rfl
@[simp] theorem resetBlock_qhs (s : State) : (resetBlock s).qhs = 0 := rfl
@[simp] theorem resetBlock_err (s : State) : (resetBlock s).err = 0 := rfl
@[simp] theorem resetBlock_ibuf (s : State) : (resetBlock s).ibuf = [] := rfl
@[simp] theorem resetBlock_obuf (s : State) : (resetBlock s).obuf = [] := rfl
@[simp] theorem resetBlock_pending (s : State) : (resetBlock s).pending = s.pending := rfl
@[simp] theorem resetBlock_sent (s : State) : (resetBlock s).sent = s.sent := rfl

/-! `raise` (R92): only ERR, and for NoValue also RVALID and RVAL. -/

@[simp] theorem raise_sync (c : Condition) (s : State) : (raise c s).sync = s.sync := by cases c <;> rfl
@[simp] theorem raise_addr (c : Condition) (s : State) : (raise c s).addr = s.addr := by cases c <;> rfl
@[simp] theorem raise_reg (c : Condition) (s : State) : (raise c s).reg = s.reg := by cases c <;> rfl
@[simp] theorem raise_ereg (c : Condition) (s : State) : (raise c s).ereg = s.ereg := by cases c <;> rfl
@[simp] theorem raise_wval (c : Condition) (s : State) : (raise c s).wval = s.wval := by cases c <;> rfl
@[simp] theorem raise_ilen (c : Condition) (s : State) : (raise c s).ilen = s.ilen := by cases c <;> rfl
@[simp] theorem raise_irun (c : Condition) (s : State) : (raise c s).irun = s.irun := by cases c <;> rfl
@[simp] theorem raise_ihold (c : Condition) (s : State) : (raise c s).ihold = s.ihold := by cases c <;> rfl
@[simp] theorem raise_rsense (c : Condition) (s : State) : (raise c s).rsense = s.rsense := by cases c <;> rfl
@[simp] theorem raise_hsin (c : Condition) (s : State) : (raise c s).hsin = s.hsin := by cases c <;> rfl
@[simp] theorem raise_crc (c : Condition) (s : State) : (raise c s).crc = s.crc := by cases c <;> rfl
@[simp] theorem raise_olen (c : Condition) (s : State) : (raise c s).olen = s.olen := by cases c <;> rfl
@[simp] theorem raise_rval (c : Condition) (s : State) :
    (raise c s).rval = if c = .noValue then 0 else s.rval := by cases c <;> rfl
@[simp] theorem raise_rvalid (c : Condition) (s : State) :
    (raise c s).rvalid = if c = .noValue then 0 else s.rvalid := by cases c <;> rfl
@[simp] theorem raise_qrun (c : Condition) (s : State) : (raise c s).qrun = s.qrun := by cases c <;> rfl
@[simp] theorem raise_qhold (c : Condition) (s : State) : (raise c s).qhold = s.qhold := by cases c <;> rfl
@[simp] theorem raise_qhs (c : Condition) (s : State) : (raise c s).qhs = s.qhs := by cases c <;> rfl
@[simp] theorem raise_err (c : Condition) (s : State) : (raise c s).err = c.code := by cases c <;> rfl
@[simp] theorem raise_ibuf (c : Condition) (s : State) : (raise c s).ibuf = s.ibuf := by cases c <;> rfl
@[simp] theorem raise_obuf (c : Condition) (s : State) : (raise c s).obuf = s.obuf := by cases c <;> rfl
@[simp] theorem raise_pending (c : Condition) (s : State) : (raise c s).pending = s.pending := by cases c <;> rfl
@[simp] theorem raise_sent (c : Condition) (s : State) : (raise c s).sent = s.sent := by cases c <;> rfl

end Sys2Proof.Machine
end

