-- ==== Sys2Proof/Laws/Ops.lean ====
section
/-! SUPPORT. What each shared operation over the state can do, said once. -/

namespace Sys2Proof.Machine

/-- All that `raise` does (R92). -/
theorem raise_eq (c : Condition) (s : State) :
    raise c s = { s with
      err := c.code
      rvalid := if c = .noValue then 0 else s.rvalid
      rval := if c = .noValue then 0 else s.rval } := by
  cases c <;> rfl

theorem length_resultBytes {w : List Byte} (h : w.length ≤ Config.obufCap) :
    (resultBytes w).length = Config.obufCap := by
  simp only [resultBytes, List.length_append, List.length_replicate]
  omega

/-- After a result sequence the whole of OBUF is the sequence and zeros (R29). -/
theorem State.readSeq_putResult {s : State} (hs : s.obuf.wf = true) {w : List Byte} (h : w.length ≤ Config.obufCap) :
    (s.putResult w).obuf.readSeq 0 Config.obufCap = resultBytes w := by
  have := Memory.readSeq_writeSeq hs 0 (resultBytes w)
  rwa [length_resultBytes h] at this

/-- A result sequence leaves OBUF canonical and within its capacity (R28). -/
theorem State.putResult_ok {s : State} (hs : s.obuf.wf = true) (hc : s.obuf.within Config.obufCap = true)
    {w : List Byte} (h : w.length ≤ Config.obufCap) :
    (s.putResult w).obuf.wf = true ∧ (s.putResult w).obuf.within Config.obufCap = true :=
  ⟨Memory.wf_writeSeq hs _ _, Memory.within_writeSeq hc _ _ (by rw [length_resultBytes h]; omega)⟩

/-- Input bytes loaded leave IBUF canonical and within its capacity (R28). -/
theorem State.loadInput_ok {s : State} (hs : s.ibuf.wf = true) (hc : s.ibuf.within Config.ibufCap = true)
    {bs : List Byte} (h : bs.length ≤ Config.ibufCap) :
    (s.loadInput bs).ibuf.wf = true ∧ (s.loadInput bs).ibuf.within Config.ibufCap = true :=
  ⟨Memory.wf_writeSeq hs _ _, Memory.within_writeSeq hc _ _ (by omega)⟩

/-- The bytes loaded are the ones read back (R30). -/
theorem State.readSeq_loadInput {s : State} (hs : s.ibuf.wf = true) (bs : List Byte) :
    (s.loadInput bs).ibuf.readSeq 0 bs.length = bs :=
  Memory.readSeq_writeSeq hs 0 bs

/-- After a result sequence it is what the host would hand over (R29, R103). -/
theorem State.resultSeq_putResult {s : State} (hs : s.obuf.wf = true) {w : List Byte} (h : w.length ≤ Config.obufCap) :
    (s.putResult w).resultSeq = w := by
  have hlen : (BitVec.ofNat 4 w.length).toNat = w.length := by
    rw [BitVec.toNat_ofNat]
    exact Nat.mod_eq_of_lt (lt_of_le_of_lt h (by decide))
  refine List.ext_getElem (by simp [State.resultSeq, hlen]) fun k h1 h2 => ?_
  simp only [State.resultSeq, State.putResult_obuf, Memory.getElem_readSeq, Nat.zero_add]
  rw [Memory.read_writeSeq hs, if_pos (by rw [length_resultBytes h]; omega)]
  rw [Nat.sub_zero, resultBytes, List.getD_eq_getElem?_getD, List.getElem?_append_left h2]
  simp [h2]

@[simp] theorem State.length_inputSeq (s : State) : s.inputSeq.length = s.ilen.toNat := Memory.length_readSeq _ _ _

end Sys2Proof.Machine
end

