-- ==== Sys2Proof/Laws/PerInstr.lean ====
section
/-! SUPPORT. Statements about every instruction, one lemma per constructor. -/

namespace Sys2Proof.Laws.EncodedLength

/-- The bytes of an instruction's word: a command code in one, a read request in 5, an 80-bit frame in 10 (R45, R57). -/
def bytes : Instr → Nat
  | .crc8 => 1
  | .stuff => 1
  | .encrd => 1
  | .encwr => 1
  | .decrd => 1
  | .quant => 1
  | .qsel => 1
  | .reserved111 => 1
  | .frameReadRequest _ _ _ _ => 5
  | .frameWriteRequest _ _ _ _ _ => 10
  | .frameReadResponse _ _ _ _ _ => 10

/-- The encoder writes exactly that many bytes. -/
def Statement (i : Instr) : Prop := (encode i).length = bytes i

theorem crc8 : Statement .crc8 := rfl
theorem stuff : Statement .stuff := rfl
theorem encrd : Statement .encrd := rfl
theorem encwr : Statement .encwr := rfl
theorem decrd : Statement .decrd := rfl
theorem quant : Statement .quant := rfl
theorem qsel : Statement .qsel := rfl
theorem reserved111 : Statement .reserved111 := rfl
theorem frameReadRequest (s a : Byte) (r : BitVec 7) (c : Byte) : Statement (.frameReadRequest s a r c) :=
  length_bytesLe _ _
theorem frameWriteRequest (s a : Byte) (r : BitVec 7) (v : Word) (c : Byte) :
    Statement (.frameWriteRequest s a r v c) := length_bytesLe _ _
theorem frameReadResponse (s a e : Byte) (v : Word) (c : Byte) : Statement (.frameReadResponse s a e v c) :=
  length_bytesLe _ _

end Sys2Proof.Laws.EncodedLength
end

