-- ==== Sys2Proof/Laws/Step.lean ====
section
/-! SUPPORT. How a step runs the host's next move. -/

namespace Sys2Proof.Machine

theorem step_idle {s : State} (h : s.pending = []) : step s = .next s := by
  simp [step, h]

theorem step_move {s : State} {m : HostMove} {ms : List HostMove} (h : s.pending = m :: ms) :
    step s = hostMove m { s with pending := ms } := by
  simp [step, h]

theorem runWord_of_decode {w : List Byte} {i : Instr} (h : decodeBytes w = .ok i) (s : State) :
    runWord w s = exec i s := by
  simp [runWord, h]

@[simp] theorem runMoves_nil (s : State) : runMoves [] s = s := rfl

@[simp] theorem runMoves_cons (m : HostMove) (ms : List HostMove) (s : State) :
    runMoves (m :: ms) s = runMoves ms (moved s m) := rfl

theorem runMoves_append (ms ns : List HostMove) (s : State) :
    runMoves (ms ++ ns) s = runMoves ns (runMoves ms s) := by
  simp [runMoves]

end Sys2Proof.Machine
end

