-- ==== Sys2Proof/Tests/Slice0.lean ====
section
/-! SUPPORT. Small tests, each about one step, with expected values from spec/95_test_vectors.md and the worked
examples of the rules (never from the model), and for every statement with hypotheses a state that meets them. -/

open Sys2Proof Sys2Proof.Machine Sys2Proof.Claims

/-! The checksum and quantizer tests nest deeper than the default allows. -/
set_option maxRecDepth 20000

namespace Sys2Proof.Tests

/-- The state an instruction leaves, or the one before where it stops. -/
def after (i : Instr) (s : State) : State :=
  match exec i s with
  | .next t => t
  | .fault _ => s
  | .refused _ => s

/-- Reset with IBUF and ILEN loaded. -/
def loaded (bs : List Byte) : State := State.reset.loadInput bs

/-- The whole of OBUF. -/
def obuf (s : State) : List Byte := s.obuf.readSeq 0 10

/-- Reset with the operands of a frame. -/
def operands (sync addr : Byte) (reg : BitVec 7) (wval : Word) : State :=
  { State.reset with sync := sync, addr := addr, reg := reg, wval := wval }

/-- Reset with the operands of the quantizer. -/
def currents (irun ihold rsense : BitVec 16) (hsin : BitVec 1) : State :=
  { State.reset with irun := irun, ihold := ihold, rsense := rsense, hsin := hsin }

/-- The reply G of 95_test_vectors.md D5: sync 0x05, address 0xFF, register 0x06, value 0x00000140. -/
def replyG : List Byte := [0x0A, 0xFA, 0xCF, 0x20, 0x80, 0x00, 0x0A, 0x08, 0x28, 0xC8]

/-- Reset with reply G in IBUF and the bytes expected of it. -/
def received : State := { loaded replyG with sync := 0x05, addr := 0xFF, ereg := 0x06 }

/-! ### WellFormed -/

theorem test_response_with_write_bit_is_ill_formed :
    (Instr.frameReadResponse 0x05 0xFF 0x86 0 0).wellFormed = false := by decide

theorem test_response_without_write_bit_is_well_formed :
    (Instr.frameReadResponse 0x05 0xFF 0x7F 0 0).wellFormed = true := by decide

/-! ### Decoding: words written out from R44's table and R51's and R53's layouts -/

theorem test_decode_crc8 : decodeTableWord 8 0b000 = some .crc8 := by decide
theorem test_decode_stuff : decodeTableWord 8 0b001 = some .stuff := by decide
theorem test_decode_encrd : decodeTableWord 8 0b010 = some .encrd := by decide
theorem test_decode_encwr : decodeTableWord 8 0b011 = some .encwr := by decide
theorem test_decode_decrd : decodeTableWord 8 0b100 = some .decrd := by decide
theorem test_decode_quant : decodeTableWord 8 0b101 = some .quant := by decide
theorem test_decode_qsel : decodeTableWord 8 0b110 = some .qsel := by decide
theorem test_decode_reserved : decodeTableWord 8 0b111 = some .reserved111 := by decide

/-- R51's example, unit by unit: c = 0x28, register 0x06, address 0x00, sync 0xF5. -/
theorem test_decode_read_request :
    decodeTableWord 40 0b1001010000_1000001100_1000000000_1111101010 =
      some (.frameReadRequest 0xF5 0x00 0x06 0x28) := by decide

/-- R53's example, unit by unit. -/
theorem test_decode_write_request :
    decodeTableWord 80
        0b1101000000_1110000000_1000000000_1000000000_1000000000_1100100000_1000000000_1111101010 =
      some (.frameWriteRequest 0xF5 0x00 0x10 0x000000C0 0xA0) := by decide

/-- R77's example, unit by unit. -/
theorem test_decode_read_response :
    decodeTableWord 80
        0b1100100000_1010000000_1000000010_1000000000_1000000000_1000001100_1111111110_1000001010 =
      some (.frameReadResponse 0x05 0xFF 0x06 0x00000140 0x90) := by decide

theorem test_code_above_three_bits_refused : decodeBytes [0x08] = .error (.codeBits 8) := by decide

theorem test_stop_bit_clear_refused :
    decodeTableWord 40 0b1001010000_1000001100_1000000000_0111101010 = none := by decide

/-! ### One step of each instruction -/

/-- 95_test_vectors.md D1. -/
theorem test_crc8 : (after .crc8 (loaded [0x05, 0x00, 0x00])).crc = 0x48 := by decide

/-- D1: the ASCII bytes 1 to 9. -/
theorem test_crc8_check_value :
    (after .crc8 (loaded [0x31, 0x32, 0x33, 0x34, 0x35, 0x36, 0x37, 0x38, 0x39])).crc = 0x04 := by decide

/-- D2: spare bits of the last wire byte are 0. -/
theorem test_stuff :
    obuf (after .stuff (loaded [0x12, 0x34, 0x56])) = [0x24, 0xA2, 0xC9, 0x2A, 0, 0, 0, 0, 0, 0] ∧
      (after .stuff (loaded [0x12, 0x34, 0x56])).olen = 4 := by decide

/-- D2: nine payload bytes are refused with ERR = 3. -/
theorem test_stuff_nine_bytes :
    (after .stuff (loaded [1, 2, 3, 4, 5, 6, 7, 8, 9])).err = 3 := by decide

/-- D3. -/
theorem test_encrd :
    obuf (after .encrd (operands 0xF5 0x03 0x6F 0)) = [0xEA, 0x1B, 0xE8, 0x2D, 0x97, 0, 0, 0, 0, 0] ∧
      (after .encrd (operands 0xF5 0x03 0x6F 0)).crc = 0x2E := by decide

/-- D4: the byte order of the value and the write bit. -/
theorem test_encwr :
    obuf (after .encwr (operands 0xF5 0x01 0x6F 0x12345678)) =
        [0xEA, 0x0B, 0xE8, 0x3D, 0x89, 0x68, 0xB2, 0x0A, 0xAF, 0xD0] ∧
      (after .encwr (operands 0xF5 0x01 0x6F 0x12345678)).crc = 0xA1 := by decide

/-- D5: accepted. -/
theorem test_decrd : (after .decrd received).rvalid = 1 ∧ (after .decrd received).rval = 0x00000140 := by
  decide

/-- D5: bit 61 flipped. -/
theorem test_decrd_damaged :
    (after .decrd { received with ibuf := received.ibuf.write 7 0x28 }).err = 1 := by decide

/-- D6: both sides of the first low-sensitivity threshold. -/
theorem test_quant_low :
    (after .quant (currents 81 0 110 0)).qrun = 0 ∧ (after .quant (currents 82 0 110 0)).qrun = 1 := by
  decide

/-- D6, S6: 0.71 A and 0.110 ohm in high sensitivity. -/
theorem test_quant_high : (after .quant (currents 710 0 110 1)).qrun = 22 := by decide

/-- D7: the switch point. -/
theorem test_qsel :
    ((after .qsel (currents 897 100 110 0)).qhs, (after .qsel (currents 897 100 110 0)).qrun,
        (after .qsel (currents 897 100 110 0)).qhold) = (1, 28, 2) ∧
      ((after .qsel (currents 898 100 110 0)).qhs, (after .qsel (currents 898 100 110 0)).qrun,
        (after .qsel (currents 898 100 110 0)).qhold) = (0, 16, 1) := by decide

/-- D7: hold above run. -/
theorem test_qsel_hold_above_run : (after .qsel (currents 1000 1001 110 0)).err = 4 := by decide

/-- P5. -/
theorem test_reserved : (after .reserved111 State.reset).err = 2 := by decide

/-- D3, through the frame row of the same read request. -/
theorem test_frame_read_request :
    (after (.frameReadRequest 0xF5 0x00 0x06 0x28) State.reset).obuf.readSeq 0 5 =
      [0xEA, 0x03, 0xC8, 0x20, 0x94] := by decide

/-- D4, through the frame row of the same write request. -/
theorem test_frame_write_request :
    obuf (after (.frameWriteRequest 0xF5 0x00 0x10 0x000000C0 0xA0) State.reset) =
      [0xEA, 0x03, 0x08, 0x32, 0x80, 0x00, 0x02, 0x08, 0x38, 0xD0] := by decide

/-- D5, through the frame row of reply G. -/
theorem test_frame_read_response :
    (after (.frameReadResponse 0x05 0xFF 0x06 0x00000140 0x90)
      { State.reset with sync := 0x05, addr := 0xFF, ereg := 0x06 }).rval = 0x00000140 := by decide

/-- R103 with D2: a STUFF-built frame is handed over whole, OLEN bytes of it. -/
theorem test_send_stuffed : (runMoves (psStuff [0x12, 0x34, 0x56] ++ [.send]) State.reset).sent =
    [[0x24, 0xA2, 0xC9, 0x2A]] := by decide

/-! ### The session: spec S8 with the example link constants of 93_implementation_defined.md G2 -/

/-- REQ_SYNC 0xF5, RESP_SYNC 0x05, RESP_ADDR 0xFF, IFCNT_ADDR 0x02, RESP_WBIT 0. -/
def link : LinkParams := ⟨0xF5, 0x05, 0xFF, 0x02, 0, 0⟩

/-- A reply of S8 with the counter at 0x12. -/
def counter12 : List Byte := [0x0A, 0xFA, 0x4F, 0x20, 0x80, 0x00, 0x02, 0x48, 0xA2, 0xD9]

/-- A reply of S8 with the counter at 0x13. -/
def counter13 : List Byte := [0x0A, 0xFA, 0x4F, 0x20, 0x80, 0x00, 0x02, 0x68, 0x22, 0x9D]

/-- A session with node 0 and these replies to come. -/
def session (ifcnt : Option Byte) (replies : List (List Byte)) : Session :=
  { Session.start 0 replies with ifcnt := ifcnt }

/-- S8: the counter moves on the first send. -/
theorem test_write_confirmed :
    (writeRegister link 0x10 0xC0 (session (some 0x12) [counter13])).1.ifcnt = some 0x13 := by decide

/-- S8: the first read and five attempts send eleven frames, and the fifth attempt is confirmed. -/
theorem test_write_confirmed_at_the_fifth_attempt :
    (writeRegister link 0x10 0xC0 (session none (List.replicate 5 counter12 ++ [counter13]))).1.ifcnt = some 0x13 ∧
      (writeRegister link 0x10 0xC0
        (session none (List.replicate 5 counter12 ++ [counter13]))).1.block.sent.length = 11 := by decide

/-! ### Witnesses: the hypotheses of each statement can be met -/

theorem witness_ResetMoveClearsTheBlock :
    { received with pending := [.reset] }.pending = .reset :: [] := by decide

theorem witness_CommandCodesSelectTheOperations : 8 ≤ 8 ∧ 8 < 256 ∧ 8 ≤ 255 ∧ 255 < 256 := by decide

theorem witness_DecodeOfEncodeIsTheInstruction :
    (Instr.frameReadResponse 0x05 0xFF 0x7F 0xDEADBEEF 0xD4).wellFormed = true ∧
      (Instr.frameWriteRequest 0xFF 0xFF 0x7F 0xFFFFFFFF 0x0C).wellFormed = true ∧
      (0x80 : Byte).getLsbD 7 = true := by decide

theorem witness_EncodeOfDecodeIsTheWord : decodeBytes [0x06] = .ok .qsel := by decide

theorem witness_StepRunsTheIssuedInstruction :
    (State.reset.withFetchWord 8 5).pending = .issue [5] :: [] ∧ decodeBytes [5] = .ok .quant ∧
      decodeTableWord 8 5 = some .quant ∧ State.reset.pending = [] := by decide

theorem witness_HostRegisterMovesDoOneThing :
    (∀ i, ReadPort.ibuf 15 = .ibuf i → i < 16) ∧ (∀ i, ReadPort.obuf 9 = .obuf i → i < 10) ∧
      (∀ i, ReadPort.ibuf 15 = .obuf i → i < 10) ∧ ∀ i, ReadPort.obuf 9 = .ibuf i → i < 16 := by
  simp

theorem witness_HostBufferMovesStoreTheirBytes :
    received.ibuf.wf = true ∧ 15 < 16 ∧ (List.replicate 16 (0xFF : Byte)).length ≤ 16 := by decide

theorem witness_HostReadsGiveTheValueTheyName : 15 < 16 ∧ 9 < 10 := by decide

theorem witness_SendHandsOverTheResultSequence :
    received.obuf.wf = true ∧ { received with ilen := 8 }.ilen.toNat ≤ 8 := by decide

theorem witness_ImpossibleHostMovesStopByName :
    16 ≤ 16 ∧ 16 < (List.replicate 17 (0xFF : Byte)).length ∧ 10 ≤ 10 ∧
      decodeBytes [0, 0] = .error (.wrongLength 2) := by decide

theorem witness_DrivenHostNeverStopsTheMachine :
    { received with pending := [.issue [4], .writeByte 15 1, .read (.obuf 9), .writeBytes replyG, .send, .reset] }.driven =
      true := by decide

theorem witness_Crc8WritesTheChecksumOfTheInput :
    { received with ilen := 16 }.ilen.toNat ≤ 16 ∧ 16 < { received with ilen := 17 }.ilen.toNat := by decide

theorem witness_StuffWritesTheWireBytesOfTheInput :
    received.obuf.wf = true ∧ { received with ilen := 8 }.ilen.toNat ≤ 8 ∧
      8 < { received with ilen := 9 }.ilen.toNat := by decide

/-- For ENCRD, ENCWR and both request frame rows: a buffer that holds an earlier frame. -/
theorem witness_EncrdBuildsTheReadRequest :
    (after .encwr (operands 0xF5 0x00 0x10 0xC0)).obuf.wf = true := by decide

theorem witness_EncwrBuildsTheWriteRequest :
    (after .encrd (operands 0xF5 0x00 0x06 0)).obuf.wf = true := by decide

theorem witness_DecrdAcceptsOrAnswersNoValue :
    { received with ilen := 9 }.ilen.toNat ≠ 10 ∧ received.ilen.toNat = 10 ∧
      decodeResponse (received.ibuf.readSeq 0 10) received.sync received.addr received.ereg = some 0x140 ∧
      decodeResponse (received.ibuf.readSeq 0 10) received.sync received.addr 0x07 = none := by decide

theorem witness_QselChoosesTheModeAndQuantizesBoth :
    (currents 0 1 110 0).irun.toNat < (currents 0 1 110 0).ihold.toNat ∧
      ((currents 897 897 110 0).ihold.toNat ≤ (currents 897 897 110 0).irun.toNat ∧
        (quantize 897 110 0).toNat < 16) ∧
      (currents 898 100 110 0).ihold.toNat ≤ (currents 898 100 110 0).irun.toNat ∧
        16 ≤ (quantize 898 110 0).toNat := by decide

theorem witness_FrameReadRequestBuildsItsWord :
    State.reset.obuf.wf = true ∧ (0x28 : Byte) = crc8 [0xF5, 0x00, (0x06 : BitVec 7).setWidth 8] := by decide

theorem witness_FrameWriteRequestBuildsItsWord :
    State.reset.obuf.wf = true ∧ (0xA0 : Byte) = crc8 (payload7 0xF5 0x00 (1#1 ++ (0x10 : BitVec 7)) 0xC0) := by
  decide

theorem witness_FrameReadResponseIsCheckedFieldByField :
    received.ibuf.wf = true ∧
      ((0x05 : Byte) = received.sync ∧ (0xFF : Byte) = received.addr ∧ (0x06 : Byte) = received.ereg ∧
        (0x90 : Byte) = crc8 (payload7 0x05 0xFF 0x06 0x140)) ∧
      ¬((0x05 : Byte) = received.sync ∧ (0xFF : Byte) = received.addr ∧ (0x06 : Byte) = received.ereg ∧
        (0x91 : Byte) = crc8 (payload7 0x05 0xFF 0x06 0x140)) := by decide

theorem witness_ErrShowsTheOutcomeOfEveryCommand : errTable.map Prod.fst = commands := by decide

theorem witness_CommandsAreIdempotent : Instr.stuff ∈ commands ∧ received.buffersOk := by decide

theorem witness_FlagsAreWrittenByTheirOperationsAlone :
    Instr.quant ∈ commands ∧ exec .quant received = .next (after .quant received) := ⟨by decide, rfl⟩

/-- Two states that differ in every result register and share their operands. -/
theorem witness_OperationsReadOnlyTheirOperands :
    let s := received
    let s' := { received with
      crc := 0xFF, olen := 10, rval := 1, rvalid := 1, qrun := 31, qhold := 31, qhs := 1, err := 4, obuf := [(9, 1)] }
    s.obuf.wf = true ∧ s'.obuf.wf = true ∧ s.ilen = s'.ilen ∧ s.ibuf = s'.ibuf ∧ s.sync = s'.sync ∧ s.addr = s'.addr ∧
      s.reg = s'.reg ∧ s.ereg = s'.ereg ∧ s.wval = s'.wval ∧ s.irun = s'.irun ∧ s.ihold = s'.ihold ∧
      s.rsense = s'.rsense ∧ s.hsin = s'.hsin := by decide

theorem witness_StepKeepsTheInvariant :
    { received with pending := [.issue [4]] }.Inv ∧
      step { received with pending := [.issue [4]] } = .next (after .decrd received) := ⟨by decide, rfl⟩

theorem witness_CrcIsLinear : ([0x12, 0x34, 0x56] : List Byte).length = ([0xF0, 0x0F, 0xAA] : List Byte).length := by
  decide

theorem witness_CrcDetectsEverySingleBitChange : 23 < 8 * ([0x12, 0x34, 0x56] : List Byte).length := by decide

theorem witness_StuffLaysUnitsOutBitByBit : 2 < ([0x12, 0x34, 0x56] : List Byte).length ∧ 7 < 8 := by decide

theorem witness_FramesAreInjective :
    frame4 0xF5 0x00 0x06 = frame4 0xF5 0x00 0x06 ∧ frame8 0x05 0xFF 0x06 0x140 = frame8 0x05 0xFF 0x06 0x140 :=
  ⟨rfl, rfl⟩

theorem witness_AcceptedSequencesAreExactlyTheFrames : decodeResponse replyG 0x05 0xFF 0x06 = some 0x140 := by
  decide

theorem witness_EverySingleBitCorruptionIsRefused : 79 < 80 := by decide

theorem witness_EncwrThenDecrdReturnsTheValue : (operands 0xF5 0x00 0x10 0xC0).buffersOk := by decide

theorem witness_CodesAreMonotone :
    (81 : BitVec 16).toNat ≤ (82 : BitVec 16).toNat ∧ (110 : BitVec 16).toNat ≤ (110 : BitVec 16).toNat := by decide

theorem witness_QselKeepsItsCodesInRange :
    (currents 897 897 110 0).ihold.toNat ≤ (currents 897 897 110 0).irun.toNat := by decide

theorem witness_ReadReturnsTheFirstAnswerOfFive :
    let z := session none [[], counter12]
    (z.debug = false ∧ z.block.buffersOk ∧ answer link 0x02 z 0 = none ∧ answer link 0x02 z 1 = some 0x12) ∧
      ∀ j, j < 5 → answer link 0x02 (session none []) j = none := by decide

/-- S8's success at the fifth attempt, its failure after five, and re-reads that need five attempts. -/
theorem witness_WriteIsConfirmedByTheCounter :
    let miss : List (List Byte) × Word := ([], 0x12)
    let hit : List (List Byte) × Word := ([[], replyG, [], replyG], 0x13)
    let gs := List.replicate 4 miss ++ [hit]
    let z := session (some 0x12) (List.replicate 4 counter12 ++ [[], replyG, [], replyG, counter13])
    let z' := session (some 0x12) (List.replicate 5 counter12)
    (z.debug = false ∧ z.block.buffersOk ∧ z.ifcnt = some 0x12 ∧ z.replies = gs.flatMap (counterReplies link) ++ [] ∧
      gs.length ≤ 5 ∧ miss.2.setWidth 8 ≠ (0x12 : Byte) + 1 ∧ hit.2.setWidth 8 = (0x12 : Byte) + 1) ∧
      z'.replies = (List.replicate 5 miss).flatMap (counterReplies link) ++ [] := by
  decide

/-- The re-reads of the witness above are answered within their budget. -/
theorem witness_answeredInTime :
    answeredInTime link ([], 0x12) ∧ answeredInTime link ([[], replyG, [], replyG], 0x13) := by
  unfold answeredInTime
  decide

/-- A failed re-read at the first attempt and at the fifth, by undecodable replies and by none. -/
theorem witness_FailedCounterReadEndsTheWrite :
    let miss : List (List Byte) × Word := ([], 0x12)
    let first := session (some 0x12) [[], replyG]
    let fifth := session (some 0x12) (List.replicate 4 counter12 ++ List.replicate 5 replyG)
    (first.debug = false ∧ first.block.buffersOk ∧ first.ifcnt = some 0x12 ∧
      first.replies = ([] : List (List (List Byte) × Word)).flatMap (counterReplies link) ++ [[], replyG]) ∧
      (fifth.replies = (List.replicate 4 miss).flatMap (counterReplies link) ++ List.replicate 5 replyG ∧
        (List.replicate 4 miss).length < 5 ∧ miss.2.setWidth 8 ≠ (0x12 : Byte) + 1) ∧
      ∀ j, j < 5 →
        decodeResponse (([[], replyG] : List (List Byte)).getD j []) link.respSync link.respAddr
            (link.respWbit ++ link.ifcntAddr) = none ∧
          decodeResponse ((List.replicate 5 replyG).getD j []) link.respSync link.respAddr
            (link.respWbit ++ link.ifcntAddr) = none := by decide

theorem witness_UnknownCounterIsReadBeforeTheFirstAttempt :
    let z := session none [counter12]
    let gone := session none []
    (z.debug = false ∧ z.ifcnt = none ∧
      readRegister link link.ifcntAddr z = ((readRegister link link.ifcntAddr z).1, .ok 0x12)) ∧
      readRegister link link.ifcntAddr gone = ((readRegister link link.ifcntAddr gone).1, .error ⟨0x02, 5, 0⟩) := by
  decide

/-- A push that is confirmed, and one that fails because the transport returns nothing. -/
theorem witness_ConnectPushesTheCacheInOrder :
    let good := session (some 0x12) [counter13]
    let gone := session (some 0x12) []
    writeRegister link 0x10 0xC0 good = ((writeRegister link 0x10 0xC0 good).1, .ok ()) ∧
      writeRegister link 0x10 0xC0 gone = ((writeRegister link 0x10 0xC0 gone).1, .error ⟨0x02, 5, 0⟩) ∧
      (connect link true [(0x10, 0xC0)] good).2 = [] ∧ (connect link true [(0x10, 0xC0)] gone).2 ≠ [] := by decide

theorem witness_DebugModeTouchesNothing : { session none [] with debug := true }.debug = true := by decide

end Sys2Proof.Tests
end

/-! SUPPORT. The layer the obligations about the state (spec/10_state.md) are proved from: what each instruction
answers, and what the shared operations keep. -/

namespace Sys2Proof.Machine

/-! ### Buffers -/

/-- A canonical buffer lists no index that reads 0. -/
theorem Memory.read_ne_zero_of_mem {m : Memory} (hm : m.wf = true) {c : Host.Cell} (hc : c ∈ m) : m.read c.1 ≠ 0 := by
  induction m with
  | nil => simp at hc
  | cons p m ih =>
    obtain ⟨hp, hlt, hw⟩ := (Memory.wf_pair p.1 p.2 m).1 hm
    rw [Memory.read_pair]
    rcases List.mem_cons.1 hc with rfl | hc
    · rwa [if_pos rfl]
    · rw [if_neg (hlt c hc).ne']
      exact ih hw hc

theorem Memory.readSeq_congr {m m' : Memory} {n : Nat} (h : ∀ k, k < n → m.read k = m'.read k) :
    m.readSeq 0 n = m'.readSeq 0 n :=
  List.map_congr_left fun k hk => by simpa using h k (List.mem_range.1 hk)

/-- Writing a sequence a second time changes nothing. -/
theorem Memory.writeSeq_writeSeq {m : Memory} (hm : m.wf = true) (i : Nat) (w : List Byte) :
    (m.writeSeq i w).writeSeq i w = m.writeSeq i w := by
  have hw := Memory.wf_writeSeq hm i w
  refine Memory.eq_of_read (Memory.wf_writeSeq hw i w) hw fun k => ?_
  rw [Memory.read_writeSeq hw, Memory.read_writeSeq hm]
  split <;> rfl

/-! ### Result and input sequences (R29) -/

theorem State.inputSeq_congr {s s' : State} (hlen : s.ilen = s'.ilen)
    (h : ∀ k, k < s.ilen.toNat → s.ibuf.read k = s'.ibuf.read k) : s.inputSeq = s'.inputSeq := by
  rw [State.inputSeq, State.inputSeq, ← hlen]
  exact Memory.readSeq_congr h

/-- An operation that ends normally with the result sequence OBUF already holds changes nothing more. -/
theorem State.putResult_done_idem {s : State} (hs : s.obuf.wf = true) (w : List Byte) :
    ((s.putResult w).done.putResult w).done = (s.putResult w).done := by
  simp only [State.putResult, State.done, Memory.writeSeq_writeSeq hs]

theorem State.toNat_olen_putResult (s : State) {w : List Byte} (h : w.length ≤ Config.obufCap) :
    (s.putResult w).olen.toNat = w.length := by
  rw [State.putResult_olen, BitVec.toNat_ofNat]
  exact Nat.mod_eq_of_lt (h.trans_lt (by decide))

theorem State.read_obuf_putResult {s : State} (hs : s.obuf.wf = true) {w : List Byte} (h : w.length ≤ Config.obufCap)
    {j : Nat} (hj : j < Config.obufCap) : (s.putResult w).obuf.read j = (resultBytes w).getD j 0 := by
  rw [State.putResult_obuf, Memory.read_writeSeq hs, length_resultBytes h, Nat.sub_zero]
  exact if_pos (by omega)

/-- From the end of the result sequence up OBUF lists no byte (R20). -/
theorem State.lt_length_of_mem_putResult {s : State} (hs : s.obuf.wf = true)
    (hc : s.obuf.within Config.obufCap = true) {w : List Byte} (h : w.length ≤ Config.obufCap) {c : Host.Cell}
    (hmem : c ∈ (s.putResult w).obuf) : c.1 < w.length := by
  obtain ⟨hwf, hwithin⟩ := State.putResult_ok hs hc h
  by_contra hge
  refine Memory.read_ne_zero_of_mem hwf hmem ?_
  rw [State.read_obuf_putResult hs h ((Memory.within_iff _ _).1 hwithin c hmem), resultBytes,
    List.getD_append_right _ _ _ _ (not_lt.1 hge)]
  simp

theorem length_stuff_inputSeq_le {s : State} (h : s.ilen.toNat ≤ Config.maxPay) :
    (stuff s.inputSeq).length ≤ Config.obufCap := by
  rw [length_stuff, State.length_inputSeq]
  simp only [Config.maxPay, Config.obufCap] at h ⊢
  omega

theorem length_frame4_le (s a rb : Byte) : (frame4 s a rb).length ≤ Config.obufCap :=
  (length_frame4 s a rb).trans_le (by decide)

theorem length_frame8_le (s a rb : Byte) (v : Word) : (frame8 s a rb v).length ≤ Config.obufCap :=
  (length_frame8 s a rb v).trans_le (by decide)

/-! ### What each instruction answers

One equation per row: every row answers a next state, and the equation says which. -/

/-- What DECRD finds in IBUF: the value of an accepted response (R76, R77). -/
def State.responseValue (s : State) : Option Word :=
  if s.ilen.toNat = Config.wrWire then decodeResponse (s.ibuf.readSeq 0 Config.wrWire) s.sync s.addr s.ereg else none

theorem State.responseValue_congr {s s' : State} (hlen : s.ilen = s'.ilen)
    (h : ∀ k, k < 10 → s.ibuf.read k = s'.ibuf.read k) (hsync : s.sync = s'.sync) (haddr : s.addr = s'.addr)
    (hereg : s.ereg = s'.ereg) : s.responseValue = s'.responseValue := by
  rw [State.responseValue, State.responseValue, hlen, Memory.readSeq_congr h, hsync, haddr, hereg]

/-- DECRD accepts the value it finds, and raises NoValue where there is none. -/
theorem checkResponse_eq (s : State) :
    checkResponse s = s.responseValue.elim (raise .noValue s) fun v => (s.acceptValue v).done := by
  unfold checkResponse State.responseValue
  by_cases hlen : s.ilen.toNat = Config.wrWire
  · rw [if_neg (not_not.2 hlen), if_pos hlen]
    split <;> simp [*]
  · rw [if_pos hlen, if_neg hlen, Option.elim_none]

/-- `checkResponse_eq` as a case split. -/
theorem checkResponse_cases (s : State) :
    (s.responseValue = none ∧ checkResponse s = raise .noValue s) ∨
      ∃ v, s.responseValue = some v ∧ checkResponse s = (s.acceptValue v).done := by
  rw [checkResponse_eq]
  cases hv : s.responseValue with
  | none => exact .inl ⟨rfl, rfl⟩
  | some v => exact .inr ⟨v, rfl, rfl⟩

theorem exec_crc8 (s : State) : exec .crc8 s = .next
    (if s.ilen.toNat > Config.ibufCap then raise .illegalOperand s else { s with crc := crc8 s.inputSeq }.done) :=
  (apply_ite Host.Outcome.next _ _ _).symm

theorem exec_stuff (s : State) : exec .stuff s = .next
    (if s.ilen.toNat > Config.maxPay then raise .illegalOperand s else (s.putResult (stuff s.inputSeq)).done) :=
  (apply_ite Host.Outcome.next _ _ _).symm

theorem exec_encrd (s : State) : exec .encrd s = .next (buildReadRequest s) := rfl

theorem exec_encwr (s : State) : exec .encwr s = .next (buildWriteRequest s) := rfl

theorem exec_decrd (s : State) : exec .decrd s = .next (checkResponse s) := rfl

theorem exec_quant (s : State) :
    exec .quant s = .next ({ s with qrun := quantize s.irun s.rsense s.hsin }.setQhs s.hsin).done := rfl

/-- The normal end of QSEL (R85). -/
def State.select (s : State) : State :=
  let hs := selectMode s.irun s.ihold s.rsense
  ({ s with qrun := quantize s.irun s.rsense hs, qhold := quantize s.ihold s.rsense hs }.setQhs hs).done

theorem exec_qsel (s : State) : exec .qsel s = .next
    (if s.ihold.toNat > s.irun.toNat then raise .preconditionViolation s else s.select) :=
  (apply_ite Host.Outcome.next _ _ _).symm

theorem exec_reserved111 (s : State) : exec .reserved111 s = .next (raise .illegalOp s) := rfl

theorem exec_frameReadRequest (sy a : Byte) (r : BitVec 7) (c : Byte) (s : State) :
    exec (.frameReadRequest sy a r c) s = .next (buildReadRequest { s with sync := sy, addr := a, reg := r }) := rfl

theorem exec_frameWriteRequest (sy a : Byte) (r : BitVec 7) (v : Word) (c : Byte) (s : State) :
    exec (.frameWriteRequest sy a r v c) s =
      .next (buildWriteRequest { s with sync := sy, addr := a, reg := r, wval := v }) := rfl

theorem exec_frameReadResponse (sy a e : Byte) (v : Word) (c : Byte) (s : State) :
    exec (.frameReadResponse sy a e v c) s =
      .next (checkResponse (s.loadInput (bytesLe (w80Word sy a e v c).toNat Config.wrWire))) := rfl

@[simp] theorem checkResponse_pending (s : State) : (checkResponse s).pending = s.pending := by
  rcases checkResponse_cases s with ⟨-, h⟩ | ⟨v, -, h⟩ <;> simp [h]

/-- Every instruction answers a next state, with the host's pending moves as they were (R10). -/
theorem exec_next (i : Instr) (s : State) : ∃ t, exec i s = .next t ∧ t.pending = s.pending := by
  cases i with
  | crc8 => exact ⟨_, exec_crc8 s, by split <;> simp⟩
  | stuff => exact ⟨_, exec_stuff s, by split <;> simp⟩
  | encrd => exact ⟨_, exec_encrd s, rfl⟩
  | encwr => exact ⟨_, exec_encwr s, rfl⟩
  | decrd => exact ⟨_, exec_decrd s, checkResponse_pending s⟩
  | quant => exact ⟨_, exec_quant s, rfl⟩
  | qsel => exact ⟨_, exec_qsel s, by split <;> simp [State.select]⟩
  | reserved111 => exact ⟨_, exec_reserved111 s, raise_pending _ s⟩
  | frameReadRequest sy a r c => exact ⟨_, exec_frameReadRequest sy a r c s, rfl⟩
  | frameWriteRequest sy a r v c => exact ⟨_, exec_frameWriteRequest sy a r v c s, rfl⟩
  | frameReadResponse sy a e v c => exact ⟨_, exec_frameReadResponse sy a e v c s, checkResponse_pending _⟩

/-! ### The invariant and the shared operations -/

theorem Condition.code_le (c : Condition) : c.code.toNat ≤ 4 := by cases c <;> decide

theorem State.Inv.reset : State.reset.Inv := by decide

theorem State.Inv.portWrite {s : State} (h : s.Inv) (w : PortWrite) : (s.portWrite w).Inv := by cases w <;> exact h

theorem State.Inv.done {s : State} (h : s.Inv) : s.done.Inv := by
  obtain ⟨hbuf, hres, -, hrval⟩ := h
  exact ⟨hbuf, hres, Nat.zero_le 4, hrval⟩

theorem State.Inv.acceptValue {s : State} (h : s.Inv) (v : Word) : (s.acceptValue v).Inv := by
  obtain ⟨hbuf, hres, herr, -⟩ := h
  exact ⟨hbuf, hres, herr, fun h0 => absurd h0 (by simp)⟩

theorem State.Inv.raise {s : State} (h : s.Inv) (c : Condition) : (raise c s).Inv := by
  obtain ⟨hbuf, hres, -, hrval⟩ := h
  rw [raise_eq]
  refine ⟨hbuf, hres, c.code_le, ?_⟩
  dsimp only
  split
  · exact fun _ => rfl
  · exact hrval

theorem State.Inv.putResult {s : State} (h : s.Inv) {w : List Byte} (hw : w.length ≤ Config.obufCap) :
    (s.putResult w).Inv := by
  obtain ⟨⟨hiwf, hicap, howf, hocap⟩, -, hstatus⟩ := h
  have holen := s.toNat_olen_putResult hw
  exact ⟨⟨hiwf, hicap, State.putResult_ok howf hocap hw⟩,
    ⟨holen.trans_le hw, fun c hc => (State.lt_length_of_mem_putResult howf hocap hw hc).trans_eq holen.symm⟩, hstatus⟩

theorem State.Inv.loadInput {s : State} (h : s.Inv) {bs : List Byte} (hbs : bs.length ≤ Config.ibufCap) :
    (s.loadInput bs).Inv := by
  obtain ⟨⟨hiwf, hicap, hobuf⟩, hres, hstatus⟩ := h
  obtain ⟨hwf, hcap⟩ := State.loadInput_ok hiwf hicap hbs
  exact ⟨⟨hwf, hcap, hobuf⟩, hres, hstatus⟩

theorem State.Inv.writeByte {s : State} (h : s.Inv) {i : Nat} (hi : i < Config.ibufCap) (b : Byte) :
    State.Inv { s with ibuf := s.ibuf.write i b } := by
  obtain ⟨⟨hiwf, hicap, hobuf⟩, hres, hstatus⟩ := h
  exact ⟨⟨Memory.wf_write hiwf i b, Memory.within_write hicap hi b, hobuf⟩, hres, hstatus⟩

theorem State.Inv.buildReadRequest {s : State} (h : s.Inv) : (buildReadRequest s).Inv :=
  (State.Inv.putResult (s := { s with crc := _ }) h (length_frame4_le _ _ _)).done

theorem State.Inv.buildWriteRequest {s : State} (h : s.Inv) : (buildWriteRequest s).Inv :=
  (State.Inv.putResult (s := { s with crc := _ }) h (length_frame8_le _ _ _ _)).done

theorem State.Inv.checkResponse {s : State} (h : s.Inv) : (checkResponse s).Inv := by
  rcases checkResponse_cases s with ⟨-, hraise⟩ | ⟨v, -, haccept⟩
  · rw [hraise]
    exact h.raise _
  · rw [haccept]
    exact (h.acceptValue v).done

/-- Every instruction leads from a state of the invariant to one. -/
theorem exec_next_inv (i : Instr) {s : State} (h : s.Inv) : ∃ t, exec i s = .next t ∧ t.Inv := by
  cases i with
  | crc8 =>
    refine ⟨_, exec_crc8 s, ?_⟩
    split
    · exact h.raise _
    · exact State.Inv.done h
  | stuff =>
    refine ⟨_, exec_stuff s, ?_⟩
    split
    · exact h.raise _
    · next hlen => exact (h.putResult (length_stuff_inputSeq_le (not_lt.1 hlen))).done
  | encrd => exact ⟨_, exec_encrd s, h.buildReadRequest⟩
  | encwr => exact ⟨_, exec_encwr s, h.buildWriteRequest⟩
  | decrd => exact ⟨_, exec_decrd s, h.checkResponse⟩
  | quant => exact ⟨_, exec_quant s, State.Inv.done h⟩
  | qsel =>
    refine ⟨_, exec_qsel s, ?_⟩
    split
    · exact h.raise _
    · exact State.Inv.done h
  | reserved111 => exact ⟨_, exec_reserved111 s, h.raise _⟩
  | frameReadRequest sy a r c => exact ⟨_, exec_frameReadRequest sy a r c s, State.Inv.buildReadRequest h⟩
  | frameWriteRequest sy a r v c => exact ⟨_, exec_frameWriteRequest sy a r v c s, State.Inv.buildWriteRequest h⟩
  | frameReadResponse sy a e v c =>
    have hlen : (bytesLe (w80Word sy a e v c).toNat Config.wrWire).length ≤ Config.ibufCap :=
      (length_bytesLe _ _).trans_le (by decide)
    exact ⟨_, exec_frameReadResponse sy a e v c s, (h.loadInput hlen).checkResponse⟩

theorem runWord_keeps_inv {word : List Byte} {s t : State} (h : s.Inv) (ht : runWord word s = .next t) : t.Inv := by
  unfold runWord at ht
  split at ht
  · next i _ =>
    obtain ⟨u, hu, hinv⟩ := exec_next_inv i h
    rw [hu] at ht
    exact Host.Outcome.next.inj ht ▸ hinv
  · cases ht

theorem hostMove_keeps_inv {m : HostMove} {s t : State} (h : s.Inv) (ht : hostMove m s = .next t) : t.Inv := by
  cases m with
  | write w =>
    cases ht
    exact h.portWrite w
  | writeByte i b =>
    simp only [hostMove] at ht
    split at ht
    · next hi =>
      cases ht
      exact h.writeByte hi b
    · cases ht
  | writeBytes bytes =>
    simp only [hostMove] at ht
    split at ht
    · next hlen =>
      cases ht
      exact h.loadInput hlen
    · cases ht
  | read p =>
    simp only [hostMove] at ht
    split at ht
    · cases ht
      exact h
    · cases ht
  | issue word => exact runWord_keeps_inv h ht
  | send =>
    cases ht
    exact h
  | reset =>
    cases ht
    exact State.Inv.reset

/-- Settles O30: each host move keeps the invariant, and the list of pending moves is no part of it. -/
theorem stepKeepsTheInvariant : Obligations.StepKeepsTheInvariant := by
  intro s t hs ht
  cases hp : s.pending with
  | nil =>
    rw [step_idle hp] at ht
    exact Host.Outcome.next.inj ht ▸ hs
  | cons m ms =>
    rw [step_move hp] at ht
    exact hostMove_keeps_inv (s := { s with pending := ms }) hs ht

/-! ### A host that keeps to its ports -/

@[simp] theorem State.portWrite_pending (w : PortWrite) (s : State) : (s.portWrite w).pending = s.pending := by
  cases w <;> rfl

/-- A possible move is made, and the host's later moves stay as they are. -/
theorem hostMove_next_of_possible {m : HostMove} (hm : m.possible = true) (s : State) :
    ∃ t, hostMove m s = .next t ∧ t.pending = s.pending := by
  cases m with
  | write w => exact ⟨_, rfl, State.portWrite_pending w s⟩
  | writeByte i b => exact ⟨_, if_pos (of_decide_eq_true hm), rfl⟩
  | writeBytes bytes => exact ⟨_, if_pos (of_decide_eq_true hm), rfl⟩
  | read p =>
    have hp : p.missing = none := Option.isNone_iff_eq_none.1 hm
    exact ⟨s, by rw [hostMove, hp], rfl⟩
  | issue word =>
    cases hd : decodeBytes word with
    | ok i =>
      rw [hostMove, runWord_of_decode hd]
      exact exec_next i s
    | error e =>
      rw [HostMove.possible, hd] at hm
      cases hm
  | send => exact ⟨_, rfl, rfl⟩
  | reset => exact ⟨_, rfl, rfl⟩

/-- Settles O11: the first pending move is possible, so it is made, and the rest of the list stays. -/
theorem drivenHostNeverStopsTheMachine : Obligations.DrivenHostNeverStopsTheMachine := by
  intro s hs
  cases hp : s.pending with
  | nil => exact ⟨s, step_idle hp, hs, hp⟩
  | cons m ms =>
    rw [State.driven, hp, List.all_cons, Bool.and_eq_true] at hs
    obtain ⟨hm, hms⟩ := hs
    obtain ⟨t, ht, htp⟩ := hostMove_next_of_possible hm { s with pending := ms }
    refine ⟨t, (step_move hp).trans ht, ?_, htp⟩
    rwa [State.driven, htp]

end Sys2Proof.Machine

/-! ### What commands write (R13, R14) -/

namespace Sys2Proof.Claims

open Sys2Proof.Machine

/-- A statement about every command is one statement per command row of R44's table. -/
theorem forall_mem_commands {P : Instr → Prop} :
    (∀ i ∈ commands, P i) ↔
      P .crc8 ∧ P .stuff ∧ P .encrd ∧ P .encwr ∧ P .decrd ∧ P .quant ∧ P .qsel ∧ P .reserved111 := by
  simp [commands]

theorem sameOperands_raise (c : Condition) (s : State) : sameOperands s (raise c s) := by simp [sameOperands]

theorem sameOperands_checkResponse (s : State) : sameOperands s (checkResponse s) := by
  rcases checkResponse_cases s with ⟨-, hraise⟩ | ⟨v, -, haccept⟩
  · rw [hraise]
    exact sameOperands_raise _ s
  · simp [haccept, sameOperands]

end Sys2Proof.Claims

namespace Sys2Proof.Machine

open Sys2Proof.Claims

theorem raise_raise (c : Condition) (s : State) : raise c (raise c s) = raise c s := by cases c <;> rfl

theorem buildReadRequest_idem {s : State} (hs : s.obuf.wf = true) :
    buildReadRequest (buildReadRequest s) = buildReadRequest s :=
  State.putResult_done_idem (s := { s with crc := crc8 (payload3 s.sync s.addr (readRegByte s.reg)) }) hs
    (frame4 s.sync s.addr (readRegByte s.reg))

theorem buildWriteRequest_idem {s : State} (hs : s.obuf.wf = true) :
    buildWriteRequest (buildWriteRequest s) = buildWriteRequest s :=
  State.putResult_done_idem (s := { s with crc := crc8 (payload7 s.sync s.addr (writeRegByte s.reg) s.wval) }) hs
    (frame8 s.sync s.addr (writeRegByte s.reg) s.wval)

@[simp] theorem State.responseValue_raise (c : Condition) (s : State) :
    (raise c s).responseValue = s.responseValue := by
  simp [State.responseValue]

@[simp] theorem State.responseValue_accepted (v : Word) (s : State) :
    (s.acceptValue v).done.responseValue = s.responseValue := rfl

theorem checkResponse_idem (s : State) : checkResponse (checkResponse s) = checkResponse s := by
  rcases checkResponse_cases s with ⟨hv, hraise⟩ | ⟨v, hv, haccept⟩
  · rw [hraise, checkResponse_eq, State.responseValue_raise, hv, Option.elim_none, raise_raise]
  · rw [haccept, checkResponse_eq, State.responseValue_accepted, hv]
    rfl

/-- Settles O26: what a command reads it does not write, and its result sequence written twice is written once. -/
theorem commandsAreIdempotent : Obligations.CommandsAreIdempotent := by
  rw [Obligations.CommandsAreIdempotent, forall_mem_commands]
  refine ⟨fun s _ => ?crc8, fun s hs => ?stuff, fun s hs => ?encrd, fun s hs => ?encwr, fun s _ => ?decrd,
    fun s _ => ?quant, fun s _ => ?qsel, fun s _ => ?reserved111⟩
  case crc8 =>
    have h := exec_crc8 s
    split at h
    · next hlen =>
      exact ⟨_, h, sameOperands_raise _ s, by rw [exec_crc8, raise_ilen, if_pos hlen, raise_raise]⟩
    · next hlen => exact ⟨_, h, by simp [sameOperands], (exec_crc8 _).trans (congrArg _ (if_neg hlen))⟩
  case stuff =>
    obtain ⟨-, -, howf, -⟩ := hs
    have h := exec_stuff s
    split at h
    · next hlen =>
      exact ⟨_, h, sameOperands_raise _ s, by rw [exec_stuff, raise_ilen, if_pos hlen, raise_raise]⟩
    · next hlen =>
      refine ⟨_, h, by simp [sameOperands], (exec_stuff _).trans (congrArg _ ((if_neg hlen).trans ?_))⟩
      exact State.putResult_done_idem howf (stuff s.inputSeq)
  case encrd =>
    obtain ⟨-, -, howf, -⟩ := hs
    exact ⟨_, exec_encrd s, by simp [sameOperands, buildReadRequest],
      (exec_encrd _).trans (congrArg _ (buildReadRequest_idem howf))⟩
  case encwr =>
    obtain ⟨-, -, howf, -⟩ := hs
    exact ⟨_, exec_encwr s, by simp [sameOperands, buildWriteRequest],
      (exec_encwr _).trans (congrArg _ (buildWriteRequest_idem howf))⟩
  case decrd =>
    exact ⟨_, exec_decrd s, sameOperands_checkResponse s, (exec_decrd _).trans (congrArg _ (checkResponse_idem s))⟩
  case quant => exact ⟨_, exec_quant s, by simp [sameOperands], rfl⟩
  case qsel =>
    have h := exec_qsel s
    split at h
    · next hhold =>
      exact ⟨_, h, sameOperands_raise _ s, by rw [exec_qsel, raise_ihold, raise_irun, if_pos hhold, raise_raise]⟩
    · next hhold =>
      exact ⟨_, h, by simp [sameOperands, State.select], (exec_qsel _).trans (congrArg _ (if_neg hhold))⟩
  case reserved111 =>
    exact ⟨_, exec_reserved111 s, sameOperands_raise _ s, (exec_reserved111 _).trans (congrArg _ (raise_raise _ s))⟩

/-- What holds of the state an instruction answers holds of every state it answers. -/
theorem forall_next_of_exec {i : Instr} {s u : State} (h : exec i s = .next u) {P : State → Prop} (hu : P u) :
    ∀ t, exec i s = .next t → P t := by
  intro t ht
  exact Host.Outcome.next.inj (h.symm.trans ht) ▸ hu

/-- DECRD writes RVALID, RVAL and ERR and leaves every other field (R77, R92). -/
theorem checkResponse_frame (s : State) :
    checkResponse s = { s with
      rvalid := (checkResponse s).rvalid, rval := (checkResponse s).rval, err := (checkResponse s).err } := by
  rcases checkResponse_cases s with ⟨-, h⟩ | ⟨v, -, h⟩ <;> rw [h] <;> rfl

/-- Settles O27: command by command, both where it ends normally and where it raises its condition. -/
theorem flagsAreWrittenByTheirOperationsAlone : Obligations.FlagsAreWrittenByTheirOperationsAlone := by
  rw [Obligations.FlagsAreWrittenByTheirOperationsAlone, forall_mem_commands]
  refine ⟨fun s => ?crc8, fun s => ?stuff, fun s => ?encrd, fun s => ?encwr, fun s => ?decrd, fun s => ?quant,
    fun s => ?qsel, fun s => ?reserved111⟩
  case crc8 => exact forall_next_of_exec (exec_crc8 s) (by split <;> simp)
  case stuff => exact forall_next_of_exec (exec_stuff s) (by split <;> simp)
  case encrd => exact forall_next_of_exec (exec_encrd s) (by simp [buildReadRequest])
  case encwr => exact forall_next_of_exec (exec_encwr s) (by simp [buildWriteRequest])
  case decrd => exact forall_next_of_exec (exec_decrd s) (by rw [checkResponse_frame]; simp)
  case quant => exact forall_next_of_exec (exec_quant s) (by simp)
  case qsel => exact forall_next_of_exec (exec_qsel s) (by split <;> simp [State.select])
  case reserved111 => exact forall_next_of_exec (exec_reserved111 s) (by simp)

/-! ### What commands read (R13) -/

/-- The ten bytes of OBUF after a result sequence do not depend on what OBUF held. -/
theorem Memory.read_writeSeq_resultBytes_congr {m m' : Memory} (hm : m.wf = true) (hm' : m'.wf = true)
    {w : List Byte} (h : w.length ≤ Config.obufCap) {j : Nat} (hj : j < 10) :
    (m.writeSeq 0 (resultBytes w)).read j = (m'.writeSeq 0 (resultBytes w)).read j := by
  have hin : 0 ≤ j ∧ j < 0 + (resultBytes w).length := by
    rw [length_resultBytes h, Nat.zero_add]
    exact ⟨Nat.zero_le j, hj⟩
  rw [Memory.read_writeSeq hm, Memory.read_writeSeq hm', if_pos hin, if_pos hin]

/-- Settles O28: the state each command answers is written over the operands of its row. -/
theorem operationsReadOnlyTheirOperands : Obligations.OperationsReadOnlyTheirOperands := by
  intro s s' hs hs'
  refine ⟨fun hlen hbytes => ?crc8, fun hlen hbytes => ?stuff, fun hsync haddr hreg => ?encrd,
    fun hsync haddr hreg hwval => ?encwr, fun hlen hbytes hsync haddr hereg => ?decrd,
    fun hirun hrsense hhsin => ?quant, fun hirun hihold hrsense => ?qsel⟩
  case crc8 =>
    refine ⟨_, _, exec_crc8 s, exec_crc8 s', ?_⟩
    rw [State.inputSeq_congr hlen hbytes, hlen]
    split
    · simp [Condition.code]
    · exact ⟨rfl, fun _ => rfl⟩
  case stuff =>
    refine ⟨_, _, exec_stuff s, exec_stuff s', ?_⟩
    rw [State.inputSeq_congr hlen hbytes, hlen]
    split
    · simp [Condition.code]
    · next hle =>
      have hw := length_stuff_inputSeq_le (not_lt.1 hle)
      exact ⟨rfl, fun _ => ⟨rfl, fun j hj => Memory.read_writeSeq_resultBytes_congr hs hs' hw hj⟩⟩
  case encrd =>
    refine ⟨_, _, exec_encrd s, exec_encrd s', rfl, ?_⟩
    simp only [buildReadRequest, State.done_crc, State.done_olen, State.done_obuf, State.putResult_crc,
      State.putResult_olen, State.putResult_obuf, hsync, haddr, hreg]
    exact ⟨trivial, trivial, fun j hj => Memory.read_writeSeq_resultBytes_congr hs hs' (length_frame4_le _ _ _) hj⟩
  case encwr =>
    refine ⟨_, _, exec_encwr s, exec_encwr s', rfl, ?_⟩
    simp only [buildWriteRequest, State.done_crc, State.done_olen, State.done_obuf, State.putResult_crc,
      State.putResult_olen, State.putResult_obuf, hsync, haddr, hreg, hwval]
    exact ⟨trivial, trivial, fun j hj => Memory.read_writeSeq_resultBytes_congr hs hs' (length_frame8_le _ _ _ _) hj⟩
  case decrd =>
    refine ⟨_, _, exec_decrd s, exec_decrd s', ?_⟩
    rw [checkResponse_eq, checkResponse_eq, State.responseValue_congr hlen hbytes hsync haddr hereg]
    cases s'.responseValue with
    | none => simp
    | some v => exact ⟨rfl, rfl, rfl⟩
  case quant =>
    refine ⟨_, _, exec_quant s, exec_quant s', rfl, ?_⟩
    rw [hirun, hrsense, hhsin]
    exact ⟨rfl, rfl⟩
  case qsel =>
    refine ⟨_, _, exec_qsel s, exec_qsel s', ?_⟩
    rw [hirun, hihold]
    split
    · simp [Condition.code]
    · simp [State.select, hirun, hihold, hrsense]

/-! ### Reset, single steps and the host's ports -/

/-- Settles O1: reset writes 0 to every field a read port names. -/
theorem resetClearsEveryRegisterAndByte : Obligations.ResetClearsEveryRegisterAndByte :=
  ⟨fun p => by cases p <;> rfl, fun _ => ⟨rfl, rfl⟩⟩

theorem decodeBytes_of_decodeTableWord {nbits w : Nat} {i : Instr} (h : decodeTableWord nbits w = some i) :
    decodeBytes (tableWordBytes nbits w) = .ok i := by
  unfold decodeTableWord at h
  cases hd : decodeBytes (tableWordBytes nbits w) with
  | ok j =>
    rw [hd] at h
    exact congrArg Except.ok (Option.some.inj h)
  | error e =>
    rw [hd] at h
    cases h

/-- Settles O7: the first pending move is taken off the list, and an issued word runs as what it decodes to. -/
theorem stepRunsTheIssuedInstruction : Obligations.StepRunsTheIssuedInstruction := by
  refine ⟨fun s w ms i hp hd => ?_, fun s nbits w i hd => ?_, fun s => step_idle⟩
  · rw [step_move hp, hostMove, runWord_of_decode hd]
  · have hp : (s.withFetchWord nbits w).pending = .issue (tableWordBytes nbits w) :: s.pending := rfl
    rw [step_move hp, hostMove, runWord_of_decode (decodeBytes_of_decodeTableWord hd)]
    rfl

/-- A port names something the block has unless it is a buffer index from the capacity up (R28). -/
theorem ReadPort.missing_eq_none {p : ReadPort} (hi : ∀ i, p = .ibuf i → i < 16) (ho : ∀ i, p = .obuf i → i < 10) :
    p.missing = none := by
  cases p with
  | ibuf i => exact if_pos (hi i rfl)
  | obuf i => exact if_pos (ho i rfl)
  | _ => rfl

/-- Settles O8: each write is one field of the record, and a read of what the block has is no change. -/
theorem hostRegisterMovesDoOneThing : Obligations.HostRegisterMovesDoOneThing := by
  intro s
  refine ⟨fun _ => rfl, fun _ => rfl, fun _ => rfl, fun _ => rfl, fun _ => rfl, fun _ => rfl, fun _ => rfl,
    fun _ => rfl, fun _ => rfl, fun _ => rfl, fun p hi ho => ?_⟩
  rw [hostMove, ReadPort.missing_eq_none hi ho]

/-- Settles O29. -/
theorem resetMeetsTheInvariant : Obligations.ResetMeetsTheInvariant := State.Inv.reset

/-- Settles O53: no register is wider than a host read, so none of its bits is lost. -/
theorem hostReadsGiveTheValueTheyName : Obligations.HostReadsGiveTheValueTheyName := by
  intro s
  simp only [State.portRead, BitVec.toNat_setWidth_of_le, Nat.reduceLeDiff, implies_true, and_self]

end Sys2Proof.Machine

/-! SUPPORT. The layer the obligations about the buffers and the order of bits (spec/20_memory.md) are proved from:
what the host's buffer moves answer, and which bit of the stream integer is which bit of the payload. -/

namespace Sys2Proof.Machine

/-! ### The host's buffer moves (R28, R30) -/

theorem hostMove_writeByte {i : Nat} (hi : i < Config.ibufCap) (b : Byte) (s : State) :
    hostMove (.writeByte i b) s = .next { s with ibuf := s.ibuf.write i b } := if_pos hi

theorem hostMove_writeBytes {bs : List Byte} (hbs : bs.length ≤ Config.ibufCap) (s : State) :
    hostMove (.writeBytes bs) s = .next (s.loadInput bs) := if_pos hbs

theorem ReadPort.missing_ibuf {i : Nat} (hi : Config.ibufCap ≤ i) : (ReadPort.ibuf i).missing = some (.ibuf, i) :=
  if_neg (not_lt.2 hi)

theorem ReadPort.missing_obuf {i : Nat} (hi : Config.obufCap ≤ i) : (ReadPort.obuf i).missing = some (.obuf, i) :=
  if_neg (not_lt.2 hi)

theorem hostMove_read_missing {p : ReadPort} {sp : Space} {i : Nat} (hp : p.missing = some (sp, i)) (s : State) :
    hostMove (.read p) s = .fault (.noSuchByte sp i) := by
  rw [hostMove, hp]

theorem runWord_of_decode_error {w : List Byte} {e : DecodeError} (hd : decodeBytes w = .error e) (s : State) :
    runWord w s = .refused (.undecodable e) := by
  rw [runWord, hd]

/-- Settles O9: a canonical buffer reads after a write what was written there, and elsewhere what it read before. -/
theorem hostBufferMovesStoreTheirBytes : Obligations.HostBufferMovesStoreTheirBytes := by
  intro s hs
  refine ⟨fun i b hi => ⟨_, hostMove_writeByte hi b s, ?_, fun j hj => ?_⟩,
    fun bs hbs => ⟨_, hostMove_writeBytes hbs s, Memory.readSeq_writeSeq hs 0 bs, fun j hj => ?_⟩⟩
  · rw [Memory.read_write hs, if_pos rfl]
  · rw [Memory.read_write hs, if_neg hj]
  · have hout : ¬(0 ≤ j ∧ j < 0 + bs.length) := by omega
    rw [Memory.read_writeSeq hs, if_neg hout]

/-- Settles O10: each move fails the one test made before it: of the index, of the count, of the word. -/
theorem impossibleHostMovesStopByName : Obligations.ImpossibleHostMovesStopByName := by
  intro s
  refine ⟨fun i b hi => ?byte, fun bs hbs => ?bytes, fun i hi => ?ibuf, fun i hi => ?obuf, fun w e hd => ?word⟩
  case byte => exact if_neg (not_lt.2 hi)
  case bytes => exact if_neg (not_le.2 hbs)
  case ibuf => exact hostMove_read_missing (ReadPort.missing_ibuf hi) s
  case obuf => exact hostMove_read_missing (ReadPort.missing_obuf hi) s
  case word => exact runWord_of_decode_error hd s

/-! ### The bits of a unit (R33, R46) -/

/-- A unit fits its ten bits. -/
theorem unit_lt (d : Byte) : unit d < 2 ^ 10 := by
  have hdata : d.toNat <<< 1 < 2 ^ 10 := by
    have hd := d.isLt
    rw [Nat.shiftLeft_eq]
    omega
  exact Nat.or_lt_two_pow hdata (by decide)

/-- The start bit is 0, the data stand one bit up, bit 9 is the stop bit. -/
theorem testBit_unit (d : Byte) (i : Nat) :
    (unit d).testBit i = ((decide (1 ≤ i) && d.getLsbD (i - 1)) || decide (9 = i)) := by
  have hstop : (0x200 : Nat).testBit i = decide (9 = i) := Nat.testBit_two_pow (n := 9)
  rw [unit, Nat.testBit_or, Nat.testBit_shiftLeft, hstop, BitVec.testBit_toNat]

theorem testBit_unit_start (d : Byte) : (unit d).testBit 0 = false := testBit_unit d 0

theorem testBit_unit_data (d : Byte) {b : Nat} (hb : b < 8) : (unit d).testBit (1 + b) = d.getLsbD b := by
  have hstop : 9 ≠ 1 + b := by omega
  simp [testBit_unit, hstop]

theorem testBit_unit_stop (d : Byte) : (unit d).testBit 9 = true := by
  rw [testBit_unit, decide_eq_true rfl, Bool.or_true]

/-! ### The bits of the stream integer (R34, R47) -/

/-- The loop puts the stream integer of its payload at `pos`, over what `out` held. -/
theorem stuffLoop_fst (m : List Byte) (out pos : Nat) :
    (stuffLoop m out pos).1 = out ||| (streamInt m <<< pos) := by
  induction m generalizing out pos with
  | nil => simp [stuffLoop, streamInt]
  | cons d m ih =>
    rw [streamInt, stuffLoop, stuffLoop, ih, ih]
    simp [Nat.shiftLeft_or_distrib, ← Nat.shiftLeft_add, Nat.or_assoc, Nat.add_comm]

@[simp] theorem streamInt_nil : streamInt [] = 0 := rfl

/-- The first unit lies at the low end, the others follow ten bits up. -/
theorem streamInt_cons (d : Byte) (m : List Byte) : streamInt (d :: m) = unit d ||| (streamInt m <<< 10) := by
  rw [streamInt, stuffLoop, stuffLoop_fst]
  simp

theorem testBit_streamInt_cons_of_lt (d : Byte) (m : List Byte) {i : Nat} (hi : i < 10) :
    (streamInt (d :: m)).testBit i = (unit d).testBit i := by
  simp [streamInt_cons, hi]

theorem testBit_streamInt_cons_add_ten (d : Byte) (m : List Byte) (j : Nat) :
    (streamInt (d :: m)).testBit (j + 10) = (streamInt m).testBit j := by
  have hunit : (unit d).testBit (j + 10) = false :=
    Nat.testBit_lt_two_pow ((unit_lt d).trans_le (Nat.pow_le_pow_right two_pos (Nat.le_add_left 10 j)))
  simp [streamInt_cons, hunit]

/-- Unit k occupies bits 10k to 10k+9 (R34). -/
theorem testBit_streamInt (m : List Byte) {k i : Nat} (hk : k < m.length) (hi : i < 10) :
    (streamInt m).testBit (10 * k + i) = (unit m[k]).testBit i := by
  induction m generalizing k with
  | nil => exact absurd hk (Nat.not_lt_zero k)
  | cons d m ih =>
    cases k with
    | zero => rw [Nat.mul_zero, Nat.zero_add, testBit_streamInt_cons_of_lt d m hi, List.getElem_cons_zero]
    | succ k =>
      rw [Nat.mul_succ, Nat.add_right_comm, testBit_streamInt_cons_add_ten, ih (Nat.lt_of_succ_lt_succ hk),
        List.getElem_cons_succ]

/-- n payload bytes give 10n stream bits (R38). -/
theorem streamInt_lt (m : List Byte) : streamInt m < 2 ^ (10 * m.length) := by
  induction m with
  | nil => exact Nat.zero_lt_one
  | cons d m ih =>
    rw [streamInt_cons, List.length_cons, Nat.mul_succ]
    refine Nat.or_lt_two_pow ((unit_lt d).trans_le (Nat.pow_le_pow_right two_pos (Nat.le_add_left 10 _))) ?_
    rw [Nat.shiftLeft_eq, Nat.pow_add]
    exact Nat.mul_lt_mul_of_pos_right ih (by decide)

/-- The wire bytes hold the whole stream integer (R34, R38). -/
theorem intLe_stuff (m : List Byte) : intLe (stuff m) = streamInt m := by
  have hbits : 10 * m.length ≤ 8 * ((10 * m.length + 7) / 8) := by omega
  have hfit : streamInt m < 256 ^ ((10 * m.length + 7) / 8) := by
    calc streamInt m < 2 ^ (10 * m.length) := streamInt_lt m
      _ ≤ 2 ^ (8 * ((10 * m.length + 7) / 8)) := Nat.pow_le_pow_right two_pos hbits
      _ = 256 ^ ((10 * m.length + 7) / 8) := Nat.pow_mul 2 8 _
  rw [stuff_eq, intLe_bytesLe, Nat.mod_eq_of_lt hfit]

/-- Settles O35: the wire bytes spell the stream integer, and there unit k lies at bit 10k. -/
theorem stuffLaysUnitsOutBitByBit : Obligations.StuffLaysUnitsOutBitByBit := by
  intro m
  rw [intLe_stuff]
  refine ⟨length_stuff m, fun k hk => ⟨?start, ?stop, fun b hb => ?data⟩, fun j hj => ?above⟩
  case start => exact (testBit_streamInt m hk (i := 0) (by decide)).trans (testBit_unit_start _)
  case stop => exact (testBit_streamInt m hk (by decide)).trans (testBit_unit_stop _)
  case data =>
    have hb' : 1 + b < 10 := by omega
    rw [Nat.add_assoc, testBit_streamInt m hk hb', testBit_unit_data _ hb]
  case above => exact Nat.testBit_lt_two_pow ((streamInt_lt m).trans_le (Nat.pow_le_pow_right two_pos hj))

end Sys2Proof.Machine

/-! SUPPORT. The layer the obligations about the words (spec/30_encoding.md) are proved from. A frame row's word is the
stream of its payload and CRC byte, so both directions of the decoder follow from one fact about any width: a word
that passes the start and stop bit test is the stream of the bytes of its units. -/

namespace Sys2Proof.Machine

/-! ### Words made of units (R34, R46) -/

/-- The first n units of v have start bit 0 and stop bit 1. -/
def Framed {w : Nat} (n : Nat) (v : BitVec w) : Prop :=
  ∀ k, k < n → v.getLsbD (10 * k) = false ∧ v.getLsbD (10 * k + 9) = true

/-- The byte of unit k. -/
def dataByte {w : Nat} (v : BitVec w) (k : Nat) : Byte := v.extractLsb' (10 * k + 1) 8

/-- A mask of all start and stop bits, compared with the stop bits alone, tests the framing. -/
theorem and_mask_eq_iff_framed {w n : Nat} {v mask pattern : BitVec w} (hw : w = 10 * n)
    (hmask : ∀ i, i < w → mask.getLsbD i = decide (i % 10 = 0 ∨ i % 10 = 9))
    (hpattern : ∀ i, i < w → pattern.getLsbD i = decide (i % 10 = 9)) :
    v &&& mask = pattern ↔ Framed n v := by
  have hbits : v &&& mask = pattern ↔
      ∀ i, i < w → (v.getLsbD i && decide (i % 10 = 0 ∨ i % 10 = 9)) = decide (i % 10 = 9) := by
    rw [BitVec.eq_of_getLsbD_eq_iff]
    refine forall₂_congr fun i hi => ?_
    rw [BitVec.getLsbD_and, hmask i hi, hpattern i hi]
  rw [hbits]
  constructor
  · intro h k hk
    have hstart := h (10 * k) (by omega)
    have hstop := h (10 * k + 9) (by omega)
    simp only [Nat.mul_mod_right, Nat.mul_add_mod] at hstart hstop
    exact ⟨by simpa using hstart, by simpa using hstop⟩
  · intro h i hi
    obtain ⟨hstart, hstop⟩ := h (i / 10) (by omega)
    by_cases h0 : i % 10 = 0
    · have hi0 : 10 * (i / 10) = i := by omega
      rw [hi0] at hstart
      simp [h0, hstart]
    · by_cases h9 : i % 10 = 9
      · have hi9 : 10 * (i / 10) + 9 = i := by omega
        rw [hi9] at hstop
        simp [h9, hstop]
      · simp [h0, h9]

theorem framed_of_toNat_eq {w : Nat} {v : BitVec w} {m : List Byte} (h : v.toNat = streamInt m) :
    Framed m.length v := by
  intro k hk
  rw [← BitVec.testBit_toNat, ← BitVec.testBit_toNat, h]
  exact ⟨(testBit_streamInt m hk (i := 0) (by decide)).trans (testBit_unit_start _),
    (testBit_streamInt m hk (by decide)).trans (testBit_unit_stop _)⟩

theorem dataByte_of_toNat_eq {w : Nat} {v : BitVec w} {m : List Byte} (h : v.toNat = streamInt m) {k : Nat}
    (hk : k < m.length) : dataByte v k = m[k] := by
  refine BitVec.eq_of_getLsbD_eq fun b hb => ?_
  have hb' : 1 + b < 10 := by omega
  rw [dataByte, BitVec.getLsbD_extractLsb', decide_eq_true hb, Bool.true_and, ← BitVec.testBit_toNat, h,
    Nat.add_assoc, testBit_streamInt m hk hb', testBit_unit_data _ hb]

/-- In a framed word the ten bits of a unit are those its byte is sent as. -/
theorem testBit_unit_dataByte {w n : Nat} {v : BitVec w} (hv : Framed n v) {k i : Nat} (hk : k < n) (hi : i < 10) :
    (unit (dataByte v k)).testBit i = v.getLsbD (10 * k + i) := by
  obtain ⟨hstart, hstop⟩ := hv k hk
  rcases Nat.eq_zero_or_pos i with rfl | hpos
  · exact (testBit_unit_start _).trans hstart.symm
  · obtain ⟨b, rfl⟩ := Nat.exists_eq_add_of_le hpos
    rcases Nat.lt_or_ge b 8 with hb | hb
    · rw [testBit_unit_data _ hb, dataByte, BitVec.getLsbD_extractLsb', decide_eq_true hb, Bool.true_and,
        Nat.add_assoc]
    · obtain rfl : b = 8 := by omega
      exact (testBit_unit_stop _).trans hstop.symm

/-- A framed word is the stream of its units' bytes. -/
theorem toNat_eq_streamInt_of_framed {w n : Nat} {v : BitVec w} (hw : w = 10 * n) (hv : Framed n v) :
    v.toNat = streamInt ((List.range n).map (dataByte v)) := by
  refine Nat.eq_of_testBit_eq fun i => ?_
  rw [BitVec.testBit_toNat]
  rcases Nat.lt_or_ge i w with hi | hi
  · have hk : i / 10 < n := by omega
    have hmod : i % 10 < 10 := Nat.mod_lt i (by decide)
    have hbit := testBit_streamInt ((List.range n).map (dataByte v)) (k := i / 10) (by simpa using hk) hmod
    rw [List.getElem_map, List.getElem_range, testBit_unit_dataByte hv hk hmod, Nat.div_add_mod] at hbit
    exact hbit.symm
  · rw [BitVec.getLsbD_of_ge v i hi]
    refine (Nat.testBit_lt_two_pow ((streamInt_lt _).trans_le (Nat.pow_le_pow_right two_pos ?_))).symm
    simpa [← hw] using hi

/-! ### The layouts of R51 and R53 are streams -/

theorem toNat_unit (d : Byte) : (1#1 ++ d ++ 0#1).toNat = unit d := by
  rw [BitVec.toNat_append, BitVec.toNat_append]
  simp [unit, Nat.shiftLeft_or_distrib, Nat.or_comm]

theorem toNat_append_unit {n : Nat} (x : BitVec n) (d : Byte) :
    (x ++ (1#1 ++ d ++ 0#1)).toNat = unit d ||| x.toNat <<< 10 := by
  rw [BitVec.toNat_append, toNat_unit, Nat.or_comm]

theorem readRegByte_eq (r : BitVec 7) : readRegByte r = 0#1 ++ r := by
  refine BitVec.eq_of_toNat_eq ?_
  rw [BitVec.toNat_append, readRegByte, BitVec.toNat_setWidth_of_le (by decide)]
  exact (Nat.zero_or _).symm

theorem writeRegByte_eq (r : BitVec 7) : writeRegByte r = 1#1 ++ r := by
  refine BitVec.eq_of_toNat_eq ?_
  rw [BitVec.toNat_append, writeRegByte, BitVec.toNat_or, BitVec.toNat_setWidth_of_le (by decide)]
  exact Nat.or_comm _ _

theorem valueBytes_eq (v : Word) :
    valueBytes v = [v.extractLsb' 24 8, v.extractLsb' 16 8, v.extractLsb' 8 8, v.extractLsb' 0 8] := by
  simp only [valueBytes, BitVec.setWidth_ushiftRight_eq_extractLsb]
  rw [BitVec.setWidth_eq_extractLsb' (by decide)]

/-- The four bytes of a value put together again (R54). -/
theorem append_valueBytes (v : Word) :
    (v >>> 24).setWidth 8 ++ (v >>> 16).setWidth 8 ++ (v >>> 8).setWidth 8 ++ v.setWidth 8 = v := by
  simp only [BitVec.setWidth_ushiftRight_eq_extractLsb]
  rw [BitVec.setWidth_eq_extractLsb' (by decide),
    BitVec.extractLsb'_append_extractLsb'_eq_extractLsb' (show 24 = 16 + 8 from rfl),
    BitVec.extractLsb'_append_extractLsb'_eq_extractLsb' (show 16 = 8 + 8 from rfl),
    BitVec.extractLsb'_append_extractLsb'_eq_extractLsb' (show 8 = 0 + 8 from rfl)]
  exact BitVec.extractLsb'_eq_self

theorem valueBytes_append (w x y z : Byte) : valueBytes (w ++ x ++ y ++ z) = [w, x, y, z] := by
  have h0 : (w ++ x ++ y ++ z).extractLsb' 24 8 = w := by
    rw [BitVec.extractLsb'_append_eq_of_le (by decide), BitVec.extractLsb'_append_eq_of_le (by decide)]
    exact BitVec.extractLsb'_append_eq_left
  have h1 : (w ++ x ++ y ++ z).extractLsb' 16 8 = x := by
    rw [BitVec.extractLsb'_append_eq_of_le (by decide), BitVec.extractLsb'_append_eq_of_le (by decide)]
    exact BitVec.extractLsb'_append_eq_right
  have h2 : (w ++ x ++ y ++ z).extractLsb' 8 8 = y := by
    rw [BitVec.extractLsb'_append_eq_of_le (by decide)]
    exact BitVec.extractLsb'_append_eq_right
  have h3 : (w ++ x ++ y ++ z).extractLsb' 0 8 = z := BitVec.extractLsb'_append_eq_right
  rw [valueBytes_eq, h0, h1, h2, h3]

/-- A register byte is its bit 7 over the 7-bit address (R52). -/
theorem append_setWidth_seven {e : Byte} {b : BitVec 1} (hb : e.getLsbD 7 = b.getLsbD 0) : b ++ e.setWidth 7 = e := by
  refine BitVec.eq_of_getLsbD_eq fun i hi => ?_
  rw [BitVec.getLsbD_append]
  split
  · next hlow => simp [hlow]
  · next hhigh =>
    obtain rfl : i = 7 := by omega
    exact hb.symm

theorem getLsbD_seven_append (b : BitVec 1) (r : BitVec 7) : (b ++ r).getLsbD 7 = b.getLsbD 0 := by
  rw [BitVec.getLsbD_append, if_neg (by decide)]

theorem toNat_w40Word (s a : Byte) (r : BitVec 7) (c : Byte) :
    (w40Word s a r c).toNat = streamInt [s, a, 0#1 ++ r, c] := by
  rw [w40Word, toNat_append_unit _ s, toNat_append_unit _ a, toNat_append_unit _ (0#1 ++ r), toNat_unit]
  simp only [streamInt_cons, streamInt_nil, Nat.zero_shiftLeft, Nat.or_zero]

theorem toNat_w80Word (s a e : Byte) (v : Word) (c : Byte) :
    (w80Word s a e v c).toNat = streamInt (payload7 s a e v ++ [c]) := by
  rw [w80Word, payload7, valueBytes_eq]
  simp only [toNat_append_unit, toNat_unit, List.cons_append, List.nil_append, streamInt_cons, streamInt_nil,
    Nat.zero_shiftLeft, Nat.or_zero]

/-! ### The register byte in a word: bit 7 of unit 2 is bit 28 (R51, R53) -/

theorem getLsbD_dataByte_two {w : Nat} (v : BitVec w) : (dataByte v 2).getLsbD 7 = v.getLsbD 28 := by
  rw [dataByte, BitVec.getLsbD_extractLsb']
  rfl

theorem setWidth_dataByte_two {w : Nat} (v : BitVec w) : (dataByte v 2).setWidth 7 = v.extractLsb' 21 7 :=
  BitVec.setWidth_extractLsb'_of_le (by decide)

/-! ### Decoding a 40-bit word (R51) -/

theorem and_mask40_iff (v : BitVec 40) : v &&& 0x8060180601#40 = 0x8020080200#40 ↔ Framed 4 v :=
  and_mask_eq_iff_framed rfl (by decide) (by decide)

theorem decodeW40_of_not_framed {v : BitVec 40} (hv : ¬Framed 4 v) : decodeW40 v = .error (.framing v.toNat) :=
  if_pos (mt (and_mask40_iff v).1 hv)

theorem decodeW40_of_writeBit {v : BitVec 40} (hv : Framed 4 v) (hbit : (dataByte v 2).getLsbD 7 = true) :
    decodeW40 v = .error (.writeBit v.toNat) := by
  rw [getLsbD_dataByte_two] at hbit
  exact (if_neg (not_not.2 ((and_mask40_iff v).2 hv))).trans (if_pos hbit)

theorem decodeW40_of_framed {v : BitVec 40} (hv : Framed 4 v) (hbit : (dataByte v 2).getLsbD 7 = false) :
    decodeW40 v =
      .ok (.frameReadRequest (dataByte v 0) (dataByte v 1) ((dataByte v 2).setWidth 7) (dataByte v 3)) := by
  rw [getLsbD_dataByte_two] at hbit
  rw [setWidth_dataByte_two]
  exact (if_neg (not_not.2 ((and_mask40_iff v).2 hv))).trans (if_neg (Bool.eq_false_iff.1 hbit))

theorem dataByte_w40Word (s a : Byte) (r : BitVec 7) (c : Byte) {k : Nat} (hk : k < 4) :
    dataByte (w40Word s a r c) k = [s, a, 0#1 ++ r, c][k] :=
  dataByte_of_toNat_eq (toNat_w40Word s a r c) hk

theorem w40Word_dataByte {v : BitVec 40} (hv : Framed 4 v) (hbit : (dataByte v 2).getLsbD 7 = false) :
    w40Word (dataByte v 0) (dataByte v 1) ((dataByte v 2).setWidth 7) (dataByte v 3) = v := by
  refine BitVec.eq_of_toNat_eq ?_
  rw [toNat_w40Word, append_setWidth_seven (b := 0#1) hbit, toNat_eq_streamInt_of_framed (n := 4) rfl hv]
  rfl

theorem decodeW40_w40Word (s a : Byte) (r : BitVec 7) (c : Byte) :
    decodeW40 (w40Word s a r c) = .ok (.frameReadRequest s a r c) := by
  have hframed : Framed 4 (w40Word s a r c) := framed_of_toNat_eq (toNat_w40Word s a r c)
  have hreg : dataByte (w40Word s a r c) 2 = 0#1 ++ r := dataByte_w40Word s a r c (by decide)
  have hbit : (dataByte (w40Word s a r c) 2).getLsbD 7 = false := by
    rw [hreg]
    exact getLsbD_seven_append 0#1 r
  rw [decodeW40_of_framed hframed hbit, hreg, BitVec.setWidth_append_eq_right]
  simp only [dataByte_w40Word, Nat.reduceLT]
  rfl

theorem eq_of_decodeW40 {v : BitVec 40} {i : Instr} (h : decodeW40 v = .ok i) :
    ∃ s a r c, v = w40Word s a r c ∧ i = .frameReadRequest s a r c := by
  by_cases hv : Framed 4 v
  · cases hbit : (dataByte v 2).getLsbD 7 with
    | true =>
      rw [decodeW40_of_writeBit hv hbit] at h
      cases h
    | false =>
      rw [decodeW40_of_framed hv hbit] at h
      exact ⟨_, _, _, _, (w40Word_dataByte hv hbit).symm, (Except.ok.inj h).symm⟩
  · rw [decodeW40_of_not_framed hv] at h
    cases h

/-! ### Decoding an 80-bit word (R53) -/

/-- The row an 80-bit frame reads as: with bit 7 of its register byte set the write request's, else the response's
(log entry 5). -/
def w80Instr (s a e : Byte) (v : Word) (c : Byte) : Instr :=
  if e.getLsbD 7 then .frameWriteRequest s a (e.setWidth 7) v c else .frameReadResponse s a e v c

theorem w80Instr_of_set {e : Byte} (he : e.getLsbD 7 = true) (s a : Byte) (v : Word) (c : Byte) :
    w80Instr s a e v c = .frameWriteRequest s a (e.setWidth 7) v c := if_pos he

theorem w80Instr_of_clear {e : Byte} (he : e.getLsbD 7 = false) (s a : Byte) (v : Word) (c : Byte) :
    w80Instr s a e v c = .frameReadResponse s a e v c := if_neg (Bool.eq_false_iff.1 he)

theorem w80Instr_append (s a : Byte) (r : BitVec 7) (v : Word) (c : Byte) :
    w80Instr s a (1#1 ++ r) v c = .frameWriteRequest s a r v c := by
  rw [w80Instr_of_set (getLsbD_seven_append 1#1 r), BitVec.setWidth_append_eq_right]

theorem wellFormed_w80Instr (s a e : Byte) (v : Word) (c : Byte) : (w80Instr s a e v c).wellFormed = true := by
  cases he : e.getLsbD 7 with
  | true => rw [w80Instr_of_set he, Instr.wellFormed]
  | false => rw [w80Instr_of_clear he, Instr.wellFormed, he, Bool.not_false]

theorem encode_w80Instr (s a e : Byte) (v : Word) (c : Byte) :
    encode (w80Instr s a e v c) = bytesLe (w80Word s a e v c).toNat 10 := by
  cases he : e.getLsbD 7 with
  | true => rw [w80Instr_of_set he, encode, append_setWidth_seven (b := 1#1) he]
  | false => rw [w80Instr_of_clear he, encode]

theorem and_mask80_iff (v : BitVec 80) :
    v &&& 0x80601806018060180601#80 = 0x80200802008020080200#80 ↔ Framed 8 v :=
  and_mask_eq_iff_framed rfl (by decide) (by decide)

theorem decodeW80_of_not_framed {v : BitVec 80} (hv : ¬Framed 8 v) : decodeW80 v = .error (.framing v.toNat) :=
  if_pos (mt (and_mask80_iff v).1 hv)

theorem decodeW80_of_framed {v : BitVec 80} (hv : Framed 8 v) :
    decodeW80 v = .ok (w80Instr (dataByte v 0) (dataByte v 1) (dataByte v 2) (w80Value v) (dataByte v 7)) := by
  rw [w80Instr, getLsbD_dataByte_two, setWidth_dataByte_two, apply_ite Except.ok]
  exact if_neg (not_not.2 ((and_mask80_iff v).2 hv))

theorem dataByte_w80Word (s a e : Byte) (v : Word) (c : Byte) {k : Nat} (hk : k < 8) :
    dataByte (w80Word s a e v c) k = (payload7 s a e v ++ [c])[k] :=
  dataByte_of_toNat_eq (toNat_w80Word s a e v c) hk

theorem w80Value_eq (v : BitVec 80) :
    w80Value v = dataByte v 3 ++ dataByte v 4 ++ dataByte v 5 ++ dataByte v 6 := rfl

theorem w80Value_w80Word (s a e : Byte) (v : Word) (c : Byte) : w80Value (w80Word s a e v c) = v := by
  simp only [w80Value_eq, dataByte_w80Word, Nat.reduceLT]
  exact append_valueBytes v

theorem w80Word_dataByte {v : BitVec 80} (hv : Framed 8 v) :
    w80Word (dataByte v 0) (dataByte v 1) (dataByte v 2) (w80Value v) (dataByte v 7) = v := by
  have hvalue : valueBytes (w80Value v) = [dataByte v 3, dataByte v 4, dataByte v 5, dataByte v 6] :=
    valueBytes_append _ _ _ _
  refine BitVec.eq_of_toNat_eq ?_
  rw [toNat_w80Word, payload7, hvalue, toNat_eq_streamInt_of_framed (n := 8) rfl hv]
  rfl

theorem decodeW80_w80Word (s a e : Byte) (v : Word) (c : Byte) :
    decodeW80 (w80Word s a e v c) = .ok (w80Instr s a e v c) := by
  have hframed : Framed 8 (w80Word s a e v c) := framed_of_toNat_eq (toNat_w80Word s a e v c)
  rw [decodeW80_of_framed hframed, w80Value_w80Word]
  simp only [dataByte_w80Word, Nat.reduceLT]
  rfl

theorem eq_of_decodeW80 {v : BitVec 80} {i : Instr} (h : decodeW80 v = .ok i) :
    ∃ s a e x c, v = w80Word s a e x c ∧ i = w80Instr s a e x c := by
  by_cases hv : Framed 8 v
  · rw [decodeW80_of_framed hv] at h
    exact ⟨_, _, _, _, _, (w80Word_dataByte hv).symm, (Except.ok.inj h).symm⟩
  · rw [decodeW80_of_not_framed hv] at h
    cases h

/-! ### Decoding a command code (R44) -/

theorem decodeCommand_of_le {b : Byte} (hb : 8 ≤ b.toNat) : decodeCommand b = .error (.codeBits b) := by
  unfold decodeCommand
  split
  case h_9 => rfl
  all_goals omega

/-- A code that decodes is the byte of the row it decodes to. -/
theorem encode_of_decodeCommand {b : Byte} {i : Instr} (h : decodeCommand b = .ok i) :
    i.wellFormed = true ∧ encode i = [b] := by
  have hbyte : ∀ {k : Byte}, b.toNat = k.toNat → [k] = [b] := fun hk =>
    congrArg (fun x => [x]) (BitVec.eq_of_toNat_eq hk.symm)
  unfold decodeCommand at h
  split at h <;> cases h
  all_goals exact ⟨rfl, hbyte ‹_›⟩

/-! ### Decoding bytes (R45, R57) -/

theorem intLe_bytesLe_toNat {n : Nat} (v : BitVec (8 * n)) : intLe (bytesLe v.toNat n) = v.toNat := by
  rw [intLe_bytesLe, ← Nat.pow_mul 2 8 n]
  exact Nat.mod_eq_of_lt v.isLt

theorem bytesLe_ofNat_intLe {n : Nat} {w : List Byte} (h : w.length = n) :
    bytesLe (BitVec.ofNat (8 * n) (intLe w)).toNat n = w := by
  subst h
  rw [BitVec.toNat_ofNat, Nat.pow_mul 2 8, Nat.mod_eq_of_lt (intLe_lt w), bytesLe_intLe]

theorem decodeBytes_bytesLe_five (v : BitVec 40) : decodeBytes (bytesLe v.toNat 5) = decodeW40 v := by
  simp only [decodeBytes, length_bytesLe]
  rw [intLe_bytesLe_toNat (n := 5), BitVec.ofNat_toNat, BitVec.setWidth_eq]

theorem decodeBytes_bytesLe_ten (v : BitVec 80) : decodeBytes (bytesLe v.toNat 10) = decodeW80 v := by
  simp only [decodeBytes, length_bytesLe]
  rw [intLe_bytesLe_toNat (n := 10), BitVec.ofNat_toNat, BitVec.setWidth_eq]

/-- The three forms of a word that decodes. -/
theorem decodeBytes_ok_cases {w : List Byte} {i : Instr} (h : decodeBytes w = .ok i) :
    (∃ b, w = [b] ∧ decodeCommand b = .ok i) ∨
      (∃ v : BitVec 40, w = bytesLe v.toNat 5 ∧ decodeW40 v = .ok i) ∨
      ∃ v : BitVec 80, w = bytesLe v.toNat 10 ∧ decodeW80 v = .ok i := by
  unfold decodeBytes at h
  split at h
  · next hlen =>
    obtain ⟨b, rfl⟩ := List.length_eq_one_iff.1 hlen
    exact .inl ⟨b, rfl, h⟩
  · next hlen => exact .inr (.inl ⟨_, (bytesLe_ofNat_intLe hlen).symm, h⟩)
  · next hlen => exact .inr (.inr ⟨_, (bytesLe_ofNat_intLe hlen).symm, h⟩)
  · cases h

theorem decodeBytes_encode {i : Instr} (hi : i.wellFormed = true) : decodeBytes (encode i) = .ok i := by
  cases i with
  | frameReadRequest s a r c => rw [encode, decodeBytes_bytesLe_five, decodeW40_w40Word]
  | frameWriteRequest s a r v c => rw [encode, decodeBytes_bytesLe_ten, decodeW80_w80Word, w80Instr_append]
  | frameReadResponse s a e v c =>
    have he : e.getLsbD 7 = false := by simpa [Instr.wellFormed] using hi
    rw [encode, decodeBytes_bytesLe_ten, decodeW80_w80Word, w80Instr_of_clear he]
  | _ => rfl

/-- Settles O5: the word of a frame row is the stream of its fields, from which the decoder takes them back. -/
theorem decodeOfEncodeIsTheInstruction : Obligations.DecodeOfEncodeIsTheInstruction := by
  refine ⟨fun i hi => decodeBytes_encode hi, fun s a e v c he => ?_⟩
  rw [encode, decodeBytes_bytesLe_ten, decodeW80_w80Word, w80Instr_of_set he]

/-- Settles O6: a word that decodes is a command's byte or the layout of R51 or R53 over some fields. -/
theorem encodeOfDecodeIsTheWord : Obligations.EncodeOfDecodeIsTheWord := by
  intro w i h
  rcases decodeBytes_ok_cases h with ⟨b, rfl, hb⟩ | ⟨v, rfl, hv⟩ | ⟨v, rfl, hv⟩
  · exact encode_of_decodeCommand hb
  · obtain ⟨s, a, r, c, rfl, rfl⟩ := eq_of_decodeW40 hv
    exact ⟨rfl, rfl⟩
  · obtain ⟨s, a, e, x, c, rfl, rfl⟩ := eq_of_decodeW80 hv
    exact ⟨wellFormed_w80Instr s a e x c, encode_w80Instr s a e x c⟩

/-- Settles O3: codes 0 to 7 are the rows of R44's table, and from 8 up a bit above the code is set. -/
theorem commandCodesSelectTheOperations : Obligations.CommandCodesSelectTheOperations := by
  refine ⟨rfl, rfl, rfl, rfl, rfl, rfl, rfl, rfl, fun w hw hlt => ?_⟩
  have hle : 8 ≤ (BitVec.ofNat 8 w).toNat := by rwa [BitVec.toNat_ofNat, Nat.mod_eq_of_lt hlt]
  have hword : decodeTableWord 8 w = (decodeCommand (BitVec.ofNat 8 w)).toOption := rfl
  rw [hword, decodeCommand_of_le hle]
  rfl

/-- Settles O4: the wire bytes of each example are the word of the row with the fields the rules give. -/
theorem workedExampleFramesDecode : Obligations.WorkedExampleFramesDecode :=
  ⟨decodeBytes_encode (i := .frameReadRequest 0xF5 0x00 0x06 0x28) rfl,
    decodeBytes_encode (i := .frameWriteRequest 0xF5 0x00 0x10 0x000000C0 0xA0) rfl,
    decodeBytes_encode (i := .frameReadResponse 0x05 0xFF 0x06 0x00000140 0x90) rfl⟩

/-- Settles O19: IllegalOp writes its code 2 to ERR and nothing else. -/
theorem reservedCodeRaisesIllegalOp : Obligations.ReservedCodeRaisesIllegalOp :=
  ⟨rfl, fun s => (exec_reserved111 s).trans (congrArg _ (raise_eq .illegalOp s))⟩

/-! ### Frames built are words of the table (R71) -/

/-- A payload with its CRC is sent as the wire bytes of one more unit. -/
theorem frameOf_eq (p : List Byte) :
    frameOf p = bytesLe (streamInt (p ++ [crc8 p])) ((10 * (p.length + 1) + 7) / 8) := by
  rw [frameOf, stuff_eq, List.length_append, List.length_singleton]

theorem frame4_eq_encode (s a : Byte) (r : BitVec 7) :
    frame4 s a (readRegByte r) = encode (.frameReadRequest s a r (crc8 (payload3 s a (readRegByte r)))) := by
  rw [frame4, frameOf_eq, encode, toNat_w40Word, readRegByte_eq]
  simp only [payload3, List.cons_append, List.nil_append, List.length_cons, List.length_nil, Nat.reduceAdd,
    Nat.reduceMul, Nat.reduceDiv]

theorem frame8_eq_bytesLe (s a e : Byte) (v : Word) :
    frame8 s a e v = bytesLe (w80Word s a e v (crc8 (payload7 s a e v))).toNat 10 := by
  rw [frame8, frameOf_eq, toNat_w80Word, length_payload7]

theorem frame8_eq_encode (s a : Byte) (r : BitVec 7) (v : Word) :
    frame8 s a (writeRegByte r) v =
      encode (.frameWriteRequest s a r v (crc8 (payload7 s a (writeRegByte r) v))) := by
  rw [frame8_eq_bytesLe, encode, writeRegByte_eq]

/-- Settles O36: a frame is the stream of its payload and CRC byte, and so is the word of its row. -/
theorem framesAreTheTablesWords : Obligations.FramesAreTheTablesWords :=
  ⟨frame4_eq_encode, frame8_eq_encode, frame8_eq_bytesLe⟩

/-! ### Result sequences read back (R29) -/

theorem State.holdsResult_putResult {s : State} (hs : s.obuf.wf = true) {w : List Byte}
    (h : w.length ≤ Config.obufCap) : Claims.holdsResult s.obuf (s.putResult w).obuf w := by
  refine ⟨State.readSeq_putResult hs h, fun j hj => ?_⟩
  have hout : ¬(0 ≤ j ∧ j < 0 + (resultBytes w).length) := by
    rw [length_resultBytes h, Nat.zero_add]
    exact fun hin => absurd hin.2 (not_lt.2 hj)
  rw [State.putResult_obuf, Memory.read_writeSeq hs, if_neg hout]

theorem State.readSeq_length_putResult {s : State} (hs : s.obuf.wf = true) {w : List Byte}
    (h : w.length ≤ Config.obufCap) : (s.putResult w).obuf.readSeq 0 w.length = w := by
  have hseq := State.resultSeq_putResult hs h
  rwa [State.resultSeq, State.toNat_olen_putResult s h] at hseq

/-- Settles O21: the row leaves ENCRD's frame in OBUF, which with the right CRC byte is the row's word. -/
theorem frameReadRequestBuildsItsWord : Obligations.FrameReadRequestBuildsItsWord := by
  intro s sy a r c hs
  have hlen := length_frame4 sy a (readRegByte r)
  have hle := length_frame4_le sy a (readRegByte r)
  refine ⟨(s.putResult (frame4 sy a (readRegByte r))).obuf, ?_, State.holdsResult_putResult hs hle, fun hc => ?_⟩
  · rw [exec_frameReadRequest, buildReadRequest, State.putResult, hlen]
    rfl
  · have hread := State.readSeq_length_putResult hs hle
    rw [hlen] at hread
    rw [hread, hc]
    exact frame4_eq_encode sy a r

/-- Settles O22: the row leaves ENCWR's frame in OBUF, which with the right CRC byte is the row's word. -/
theorem frameWriteRequestBuildsItsWord : Obligations.FrameWriteRequestBuildsItsWord := by
  intro s sy a r v c hs
  rw [← writeRegByte_eq]
  have hlen := length_frame8 sy a (writeRegByte r) v
  have hle := length_frame8_le sy a (writeRegByte r) v
  have hread := State.readSeq_length_putResult hs hle
  rw [hlen] at hread
  obtain ⟨-, hbeyond⟩ := State.holdsResult_putResult hs hle
  refine ⟨(s.putResult (frame8 sy a (writeRegByte r) v)).obuf, ?_, hread, hbeyond, fun hc => ?_⟩
  · rw [exec_frameWriteRequest, buildWriteRequest, State.putResult, hlen]
    rfl
  · rw [hread, hc]
    exact frame8_eq_encode sy a r v

/-! ### Pseudo-instructions (R58, R59) -/

theorem moved_of_next {m : HostMove} {s t : State} (h : hostMove m s = .next t) : moved s m = t := by
  rw [moved, h]

/-- Issuing the word of an instruction leads to the state the instruction answers. -/
theorem exec_eq_moved_issue {i : Instr} (hi : i.wellFormed = true) (s : State) :
    exec i s = .next (moved s (.issue (encode i))) := by
  obtain ⟨t, ht, -⟩ := exec_next i s
  have hmove : hostMove (.issue (encode i)) s = .next t := (runWord_of_decode (decodeBytes_encode hi) s).trans ht
  rw [ht, moved_of_next hmove]

/-- Settles O24: the host writes lead to the state the row performs its operation in; for the response row they write
back SYNC, ADDR and EREG as they stand. -/
theorem frameRowsRunThePseudoInstructions : Obligations.FrameRowsRunThePseudoInstructions := by
  intro s sy a e r v c
  refine ⟨?readRequest, ?writeRequest, ?readResponse⟩
  case readRequest => exact exec_eq_moved_issue (i := .encrd) rfl { s with sync := sy, addr := a, reg := r }
  case writeRequest => exact exec_eq_moved_issue (i := .encwr) rfl { s with sync := sy, addr := a, reg := r, wval := v }
  case readResponse =>
    have hle : (encode (.frameReadResponse sy a e v c)).length ≤ Config.ibufCap :=
      (length_bytesLe _ _).trans_le (by decide)
    have hload : moved s (.writeBytes (encode (.frameReadResponse sy a e v c))) =
        s.loadInput (encode (.frameReadResponse sy a e v c)) := moved_of_next (hostMove_writeBytes hle s)
    refine (exec_eq_moved_issue (i := .decrd) rfl (s.loadInput (encode (.frameReadResponse sy a e v c)))).trans ?_
    rw [← hload]
    rfl

end Sys2Proof.Machine

/-! SUPPORT. The layer the obligations about the checksum (spec/40_crc.md) are proved from. The register is a
polynomial of degree below 8 over GF(2), and a round multiplies it by x, brings in one bit at x^8 and reduces: so rounds
are linear, no two registers merge, and what stays is the remainder of R65. -/

namespace Sys2Proof.Machine

/-! ### One round (R63) -/

/-- The shifted register and, when the bit shifted out differs from the bit coming in, the polynomial. -/
theorem crcBit_eq (c : Byte) (b : Bool) : crcBit c b = c <<< 1 ^^^ if c.getLsbD 7 ^^ b then 0x07 else 0 := by
  unfold crcBit
  split
  · rfl
  · exact (BitVec.xor_zero).symm

theorem crcBit_xor (c d : Byte) (a b : Bool) : crcBit (c ^^^ d) (a ^^ b) = crcBit c a ^^^ crcBit d b := by
  have hmask : ∀ p q : Bool,
      (if p ^^ q then (0x07 : Byte) else 0) = (if p then 0x07 else 0) ^^^ if q then 0x07 else 0 := by decide
  have hbit : ((c ^^^ d).getLsbD 7 ^^ (a ^^ b)) = ((c.getLsbD 7 ^^ a) ^^ (d.getLsbD 7 ^^ b)) := by
    rw [BitVec.getLsbD_xor, Bool.xor_assoc, Bool.xor_assoc, Bool.xor_left_comm (d.getLsbD 7)]
  rw [crcBit_eq, crcBit_eq, crcBit_eq, hbit, hmask, BitVec.shiftLeft_xor_distrib]
  ac_rfl

/-- A bit equal to the register's top bit cancels it. -/
theorem crcBit_getMsbD_zero (c : Byte) : crcBit c (c.getMsbD 0) = c <<< 1 := by
  have htop : c.getMsbD 0 = c.getLsbD 7 := rfl
  rw [crcBit_eq, htop, Bool.xor_self]
  exact BitVec.xor_zero

/-- Bit 0 after a round says whether the polynomial was applied. -/
theorem getLsbD_zero_crcBit (c : Byte) (b : Bool) : (crcBit c b).getLsbD 0 = (c.getLsbD 7 ^^ b) := by
  have hmask : ∀ p : Bool, (if p then (0x07 : Byte) else 0).getLsbD 0 = p := by decide
  rw [crcBit_eq, BitVec.getLsbD_xor, hmask, BitVec.getLsbD_shiftLeft]
  exact Bool.false_xor _

theorem getLsbD_shiftLeft_one (c : Byte) {i : Nat} (hi : i < 7) : (c <<< 1).getLsbD (i + 1) = c.getLsbD i := by
  have hwidth : i + 1 < 8 := Nat.succ_lt_succ hi
  simp [-BitVec.getLsbD_eq_getElem, hwidth]

/-- A round can be undone: bit 0 gives the top bit back, and the other bits are the shifted ones. -/
theorem crcBit_injective (b : Bool) : Function.Injective (crcBit · b) := by
  intro c d (h : crcBit c b = crcBit d b)
  have htop : c.getLsbD 7 = d.getLsbD 7 := by
    have hbit := congrArg (BitVec.getLsbD · 0) h
    simpa only [getLsbD_zero_crcBit, Bool.xor_left_inj] using hbit
  have hshift : c <<< 1 = d <<< 1 := by
    rwa [crcBit_eq, crcBit_eq, htop, BitVec.xor_left_inj] at h
  refine BitVec.eq_of_getLsbD_eq fun i hi => ?_
  rcases Nat.lt_or_ge i 7 with hlow | hhigh
  · have hbit := congrArg (BitVec.getLsbD · (i + 1)) hshift
    simpa only [getLsbD_shiftLeft_one _ hlow] using hbit
  · obtain rfl : i = 7 := by omega
    exact htop

/-! ### One byte: eight rounds (R63) -/

@[simp] theorem crcByte_zero_zero : crcByte 0 0 = 0 := rfl

theorem crcByte_xor (c d a b : Byte) : crcByte (c ^^^ d) (a ^^^ b) = crcByte c a ^^^ crcByte d b := by
  rw [crcByte_eq, crcByte_eq, crcByte_eq]
  generalize List.range 8 = is
  induction is generalizing c d with
  | nil => rfl
  | cons i is ih => rw [List.foldl_cons, BitVec.getLsbD_xor, crcBit_xor, ih, List.foldl_cons, List.foldl_cons]

/-- Each of the first n bits of the reversed register cancels the top bit it meets. -/
theorem foldl_crcBit_reverse (c : Byte) (n : Nat) :
    (List.range n).foldl (fun r i => crcBit r (c.reverse.getLsbD i)) c = c <<< n := by
  induction n with
  | zero => exact (BitVec.shiftLeft_zero c).symm
  | succ n ih =>
    have htop : c.reverse.getLsbD n = (c <<< n).getMsbD 0 := by
      rw [BitVec.getLsbD_reverse, BitVec.getMsbD_shiftLeft, Nat.zero_add]
    rw [List.range_succ, List.foldl_append, ih, List.foldl_cons, List.foldl_nil, htop, crcBit_getMsbD_zero,
      BitVec.shiftLeft_add]

/-- The register's own value, fed in from its top bit down, clears it (R67 (d)). -/
theorem crcByte_reverse (c : Byte) : crcByte c c.reverse = 0 := by
  rw [crcByte_eq, foldl_crcBit_reverse]
  exact BitVec.shiftLeft_eq_zero (Nat.le_refl 8)

theorem crcByte_left_injective (b : Byte) : Function.Injective (crcByte · b) := by
  intro c d (h : crcByte c b = crcByte d b)
  rw [crcByte_eq, crcByte_eq] at h
  generalize List.range 8 = is at h
  induction is generalizing c d with
  | nil => exact h
  | cons i is ih => exact crcBit_injective _ (ih h)

/-- From one register, different bytes lead to different registers. -/
theorem crcByte_right_injective (c : Byte) : Function.Injective (crcByte c) := by
  intro a b h
  have hzero : crcByte 0 (a ^^^ b) = 0 := by
    have hxor := crcByte_xor c c a b
    rwa [h, BitVec.xor_self, BitVec.xor_self] at hxor
  have hreverse : crcByte (a ^^^ b).reverse (a ^^^ b) = 0 := by
    have hclear := crcByte_reverse (a ^^^ b).reverse
    rwa [BitVec.reverse_reverse_eq] at hclear
  have hregister : (a ^^^ b).reverse = 0 := crcByte_left_injective _ (hreverse.trans hzero.symm)
  exact BitVec.xor_eq_zero_iff.1 (BitVec.reverse_eq_zero_iff.1 hregister)

/-! ### Sequences -/

theorem crc8_zero_cons (s : List Byte) : crc8 (0 :: s) = crc8 s := by
  rw [crc8, List.foldl_cons, crcByte_zero_zero, crc8]

theorem foldl_crcByte_zipWith_xor {s t : List Byte} (h : s.length = t.length) (c d : Byte) :
    (List.zipWith (· ^^^ ·) s t).foldl crcByte (c ^^^ d) = s.foldl crcByte c ^^^ t.foldl crcByte d := by
  induction s generalizing t c d with
  | nil =>
    obtain rfl := List.length_eq_zero_iff.1 h.symm
    rfl
  | cons a s ih =>
    cases t with
    | nil => exact absurd h (Nat.succ_ne_zero _)
    | cons b t =>
      rw [List.zipWith_cons_cons, List.foldl_cons, crcByte_xor, ih (Nat.succ.inj h), List.foldl_cons, List.foldl_cons]

theorem foldl_crcByte_injective (s : List Byte) : Function.Injective (s.foldl crcByte) := by
  induction s with
  | nil => exact Function.injective_id
  | cons b s ih => exact ih.comp (crcByte_left_injective b)

/-- A sequence with another byte in one place has another CRC. -/
theorem crc8_set_ne {s : List Byte} {i : Nat} (hi : i < s.length) {b : Byte} (hb : b ≠ s[i]) :
    crc8 (s.set i b) ≠ crc8 s := by
  have hset : ∀ x, crc8 (s.set i x) = (s.drop (i + 1)).foldl crcByte (crcByte (crc8 (s.take i)) x) := by
    intro x
    rw [List.set_eq_take_append_cons_drop, if_pos hi, crc8, List.foldl_append, List.foldl_cons, crc8]
  intro heq
  rw [← List.set_getElem_self hi, List.set_set, hset, hset] at heq
  exact hb (crcByte_right_injective _ (foldl_crcByte_injective _ heq))

theorem flipBit_eq_set {s : List Byte} {k : Nat} (hk : k / 8 < s.length) :
    Claims.flipBit s k = s.set (k / 8) (s[k / 8] ^^^ BitVec.ofNat 8 (2 ^ (k % 8))) := by
  rw [Claims.flipBit, List.getD_eq_getElem _ _ hk]

theorem ofNat_two_pow_ne_zero : ∀ i < 8, BitVec.ofNat 8 (2 ^ i) ≠ 0 := by decide

/-- Settles O32: every round is linear, so the register of the exclusive-or is the exclusive-or of the registers. -/
theorem crcIsLinear : Obligations.CrcIsLinear := fun _ _ h => foldl_crcByte_zipWith_xor h 0 0

/-- Settles O33: the changed byte gives another register, and the bytes after it keep the registers apart. -/
theorem crcDetectsEverySingleBitChange : Obligations.CrcDetectsEverySingleBitChange := by
  intro s k hk
  have hi : k / 8 < s.length := by omega
  rw [flipBit_eq_set hi]
  refine crc8_set_ne hi fun heq => ?_
  have hzero : BitVec.ofNat 8 (2 ^ (k % 8)) = 0 := (BitVec.xor_right_inj _).1 (heq.trans BitVec.xor_zero.symm)
  exact ofNat_two_pow_ne_zero (k % 8) (Nat.mod_lt k (by decide)) hzero

/-- Settles O34: a zero byte leaves register 0 as it is, and the bit-reversed register clears itself. -/
theorem crcIgnoresLeadingZerosAndHasResidueZero : Obligations.CrcIgnoresLeadingZerosAndHasResidueZero :=
  fun s => ⟨crc8_zero_cons s, (crc8_concat s _).trans (crcByte_reverse _)⟩

/-! ### The operation (R64) -/

/-- Settles O12: the one test is of ILEN, and IllegalOperand writes its code 3 to ERR and nothing else. -/
theorem crc8WritesTheChecksumOfTheInput : Obligations.Crc8WritesTheChecksumOfTheInput := by
  refine ⟨rfl, fun s => ⟨fun hlen => ?_, fun hlen => ?_⟩⟩
  · rw [exec_crc8, if_neg (not_lt.2 hlen)]
    rfl
  · rw [exec_crc8, if_pos hlen, raise_eq]
    rfl

/-! ### The remainder (R65) -/

/-- The rounds take the bits of the sequence in wire order. -/
theorem crc8_eq_foldl_wireBits (s : List Byte) : crc8 s = (wireBits s).foldl crcBit 0 := by
  have hbyte : crcByte = fun c b => ((List.range 8).map fun i => b.getLsbD i).foldl crcBit c := by
    funext c b
    rw [crcByte_eq, List.foldl_map]
  rw [crc8, wireBits, List.foldl_flatMap, hbyte]

section
open Polynomial

/-- The polynomial of a register: bit i is the coefficient of x^i (R65). -/
noncomputable def registerPoly (c : Byte) : (ZMod 2)[X] := ∑ i ∈ Finset.range 8, if c.getLsbD i then X ^ i else 0

/-- x^8 + x^2 + x + 1, the generator (R65). -/
noncomputable def crcGenerator : (ZMod 2)[X] := X ^ 8 + X ^ 2 + X + 1

/-- One more bit below the coefficients so far. -/
noncomputable def appendBit (p : (ZMod 2)[X]) (b : Bool) : (ZMod 2)[X] := p * X + if b then 1 else 0

theorem crcGenerator_eq : crcGenerator = X ^ 8 + (X ^ 2 + X + 1) := by
  rw [crcGenerator, add_assoc, add_assoc, add_assoc]

theorem degree_crcGenerator_tail : (X ^ 2 + X + 1 : (ZMod 2)[X]).degree < (8 : ℕ) := by
  compute_degree!

theorem monic_crcGenerator : crcGenerator.Monic := by
  rw [crcGenerator_eq]
  exact monic_X_pow_add degree_crcGenerator_tail

theorem degree_crcGenerator : crcGenerator.degree = (8 : ℕ) := by
  have htail := degree_crcGenerator_tail.trans_eq (degree_X_pow (R := ZMod 2) 8).symm
  rw [crcGenerator_eq, degree_add_eq_left_of_degree_lt htail, degree_X_pow]

theorem degree_registerPoly_lt (c : Byte) : (registerPoly c).degree < crcGenerator.degree := by
  rw [degree_crcGenerator]
  refine (degree_sum_le _ _).trans_lt ((Finset.sup_lt_iff (by decide)).2 fun i hi => ?_)
  split
  · rw [degree_X_pow]
    exact_mod_cast Finset.mem_range.1 hi
  · exact WithBot.bot_lt_coe 8

/-- Exclusive-or is the addition of coefficients in GF(2). -/
theorem ite_xor_eq_add_ite (a b : Bool) (p : (ZMod 2)[X]) :
    (if a ^^ b then p else 0) = (if a then p else 0) + if b then p else 0 := by
  cases a <;> cases b <;> simp [CharTwo.add_self_eq_zero]

theorem registerPoly_xor (c d : Byte) : registerPoly (c ^^^ d) = registerPoly c + registerPoly d := by
  simp only [registerPoly, BitVec.getLsbD_xor, ite_xor_eq_add_ite, Finset.sum_add_distrib]

theorem registerPoly_zero : registerPoly 0 = 0 := by simp [registerPoly]

/-- The mask 0x07 is the generator without its highest term. -/
theorem registerPoly_seven : registerPoly 0x07 = X ^ 2 + X + 1 := by
  have hsum : registerPoly 0x07 = 1 + X + X ^ 2 := by simp [registerPoly, Finset.sum_range_succ]
  rw [hsum]
  ring

/-- A shift multiplies by x; the bit shifted out is the coefficient of x^8. -/
theorem X_mul_registerPoly (c : Byte) :
    X * registerPoly c = registerPoly (c <<< 1) + if c.getLsbD 7 then X ^ 8 else 0 := by
  have hhigh : registerPoly (c <<< 1) = ∑ i ∈ Finset.range 7, if c.getLsbD i then X ^ (i + 1) else 0 := by
    rw [registerPoly, Finset.sum_range_succ' _ 7, Finset.sum_congr rfl fun i hi => by
      rw [getLsbD_shiftLeft_one c (Finset.mem_range.1 hi)]]
    simp
  rw [hhigh, registerPoly, Finset.sum_range_succ _ 7, mul_add, Finset.mul_sum]
  simp only [mul_ite, mul_zero, ← pow_succ']

/-- A round multiplies by x, brings the bit in at x^8 and takes the generator off when x^8 then stands. -/
theorem X_mul_registerPoly_add (c : Byte) (b : Bool) :
    X * registerPoly c + (if b then X ^ 8 else 0) =
      registerPoly (crcBit c b) + if c.getLsbD 7 ^^ b then crcGenerator else 0 := by
  have hmask : ∀ t : Bool, registerPoly (if t then 0x07 else 0) + (if t then crcGenerator else 0) =
      if t then X ^ 8 else 0 := by
    intro t
    cases t with
    | false => simp only [Bool.false_eq_true, if_false, registerPoly_zero, add_zero]
    | true =>
      simp only [if_true, registerPoly_seven, crcGenerator_eq]
      rw [add_left_comm, CharTwo.add_self_eq_zero, add_zero]
  rw [crcBit_eq, registerPoly_xor, add_assoc, hmask, ite_xor_eq_add_ite, X_mul_registerPoly, add_assoc]

/-- The register stays congruent to the bits so far times x^8. -/
theorem crcGenerator_dvd_foldl (bits : List Bool) {c : Byte} {p : (ZMod 2)[X]}
    (h : crcGenerator ∣ p * X ^ 8 - registerPoly c) :
    crcGenerator ∣ bits.foldl appendBit p * X ^ 8 - registerPoly (bits.foldl crcBit c) := by
  induction bits generalizing c p with
  | nil => exact h
  | cons b bits ih =>
    refine ih ?_
    have hstep : appendBit p b * X ^ 8 - registerPoly (crcBit c b) =
        X * (p * X ^ 8 - registerPoly c) + if c.getLsbD 7 ^^ b then crcGenerator else 0 := by
      have hround := X_mul_registerPoly_add c b
      have hbit : (if b then 1 else 0) * X ^ 8 = if b then (X : (ZMod 2)[X]) ^ 8 else 0 := by
        rw [ite_mul, one_mul, zero_mul]
      rw [appendBit, add_mul, hbit]
      linear_combination hround
    rw [hstep]
    refine dvd_add (h.mul_left X) ?_
    split
    · exact dvd_rfl
    · exact dvd_zero _

/-- Settles O31: each bit in wire order keeps the register congruent to the bits so far times x^8, and a register's
degree is below the generator's. -/
theorem crcIsThePolynomialRemainder : Obligations.CrcIsThePolynomialRemainder := by
  intro s
  have hdvd : crcGenerator ∣ (wireBits s).foldl appendBit 0 * X ^ 8 - registerPoly (crc8 s) := by
    rw [crc8_eq_foldl_wireBits]
    refine crcGenerator_dvd_foldl _ ?_
    rw [zero_mul, registerPoly_zero, sub_zero]
    exact dvd_zero _
  have hself : registerPoly (crc8 s) %ₘ crcGenerator = registerPoly (crc8 s) :=
    (modByMonic_eq_self_iff monic_crcGenerator).2 (degree_registerPoly_lt _)
  exact hself.symm.trans (modByMonic_eq_of_dvd_sub monic_crcGenerator hdvd).symm

end

end Sys2Proof.Machine

/-! SUPPORT. The layer the obligations about framing (spec/41_framing.md) are proved from. A payload is read back from
its stream, so frames are injective and a response decodes exactly when it is the frame of its value; the CRC keeps any
two frames apart in two units at least, so no single bit turns one frame into another. -/

namespace Sys2Proof.Machine

/-! ### A payload is read back from its stream (R47, R71) -/

theorem getLsbD_eq_testBit_streamInt (m : List Byte) {k b : Nat} (hk : k < m.length) (hb : b < 8) :
    m[k].getLsbD b = (streamInt m).testBit (10 * k + (1 + b)) := by
  have hb' : 1 + b < 10 := by omega
  rw [testBit_streamInt m hk hb', testBit_unit_data _ hb]

/-- Payloads whose streams agree on the bits of unit k have the same byte k. -/
theorem getElem_eq_of_testBit_streamInt {m m' : List Byte} {k : Nat} (hk : k < m.length) (hk' : k < m'.length)
    (h : ∀ i, i / 10 = k → (streamInt m).testBit i = (streamInt m').testBit i) : m[k] = m'[k] := by
  refine BitVec.eq_of_getLsbD_eq fun b hb => ?_
  rw [getLsbD_eq_testBit_streamInt m hk hb, getLsbD_eq_testBit_streamInt m' hk' hb]
  exact h _ (by omega)

theorem streamInt_inj {m m' : List Byte} (hlen : m.length = m'.length) (h : streamInt m = streamInt m') : m = m' :=
  List.ext_getElem hlen fun _ hk hk' => getElem_eq_of_testBit_streamInt hk hk' fun _ _ => by rw [h]

theorem frameOf_inj {p p' : List Byte} (hlen : p.length = p'.length) (h : frameOf p = frameOf p') : p = p' := by
  have hstream : streamInt (p ++ [crc8 p]) = streamInt (p' ++ [crc8 p']) := by
    rw [← intLe_stuff, ← intLe_stuff]
    exact congrArg intLe h
  exact (List.append_inj (streamInt_inj (by simp [hlen]) hstream) hlen).1

theorem valueBytes_inj {v v' : Word} : valueBytes v = valueBytes v' ↔ v = v' := by
  refine ⟨fun h => ?_, congrArg valueBytes⟩
  simp only [valueBytes, List.cons.injEq, and_true] at h
  obtain ⟨h0, h1, h2, h3⟩ := h
  rw [← append_valueBytes v, ← append_valueBytes v', h0, h1, h2, h3]

theorem payload7_inj {s a rb s' a' rb' : Byte} {v v' : Word} :
    payload7 s a rb v = payload7 s' a' rb' v' ↔ s = s' ∧ a = a' ∧ rb = rb' ∧ v = v' := by
  simp only [payload7, List.cons_append, List.nil_append, List.cons.injEq, valueBytes_inj]

theorem frame8_inj {s a rb s' a' rb' : Byte} {v v' : Word} (h : frame8 s a rb v = frame8 s' a' rb' v') :
    s = s' ∧ a = a' ∧ rb = rb' ∧ v = v' :=
  payload7_inj.1 (frameOf_inj rfl h)

/-- Settles O37: equal frames have equal payloads, and a payload lists its arguments. -/
theorem framesAreInjective : Obligations.FramesAreInjective := by
  refine ⟨fun s a rb s' a' rb' h => ?_, fun _ _ _ _ _ _ _ _ => frame8_inj⟩
  have hpayload : payload3 s a rb = payload3 s' a' rb' := frameOf_inj rfl h
  simpa [payload3] using hpayload

/-! ### The decoder accepts frames and nothing else (R76, R79) -/

/-- The accumulator's value is that of the 80-bit word it holds (R54). -/
theorem extractValue_toNat (v : BitVec 80) : extractValue v.toNat = w80Value v := by
  have hvalue : BitVec.ofNat 32 (w80Value v).toNat = w80Value v := by rw [BitVec.ofNat_toNat, BitVec.setWidth_eq]
  have hmask : ∀ n, n &&& 0xFF = n % 2 ^ 8 := fun n => Nat.and_two_pow_sub_one_eq_mod n 8
  rw [← hvalue, extractValue, w80Value]
  simp only [hmask, BitVec.toNat_append, BitVec.extractLsb'_toNat, Nat.shiftLeft_or_distrib, ← Nat.shiftLeft_add]

theorem intLe_frame8 (s a rb : Byte) (v : Word) :
    intLe (frame8 s a rb v) = (w80Word s a rb v (crc8 (payload7 s a rb v))).toNat := by
  rw [frame8_eq_bytesLe, intLe_bytesLe_toNat (n := 10)]

theorem decodeResponse_frame8 (s a rb : Byte) (v : Word) : decodeResponse (frame8 s a rb v) s a rb = some v := by
  have hvalue : extractValue (intLe (frame8 s a rb v)) = v := by
    rw [intLe_frame8, extractValue_toNat, w80Value_w80Word]
  simp [decodeResponse, hvalue]

theorem decodeResponse_eq_some_iff {data : List Byte} {es ea erb : Byte} {v : Word} :
    decodeResponse data es ea erb = some v ↔ data = frame8 es ea erb v :=
  ⟨decodeResponse_eq_some, fun h => h ▸ decodeResponse_frame8 es ea erb v⟩

/-- Settles O39: the decoder compares with the frame it rebuilds, and a frame names its three bytes. -/
theorem acceptedSequencesAreExactlyTheFrames : Obligations.AcceptedSequencesAreExactlyTheFrames := by
  refine ⟨fun _ _ _ _ _ => decodeResponse_eq_some_iff, fun data es ea erb es' ea' erb' v v' h h' => ?_⟩
  have hframes := (decodeResponse_eq_some h).symm.trans (decodeResponse_eq_some h')
  obtain ⟨hs, ha, hrb, -⟩ := frame8_inj hframes
  exact ⟨hs, ha, hrb⟩

/-! ### The seven checks (R78) -/

theorem eq_bytesLe_of_length_eq_ten {data : List Byte} (h : data.length = 10) :
    ∃ w : BitVec 80, data = bytesLe w.toNat 10 :=
  ⟨_, (bytesLe_ofNat_intLe h).symm⟩

theorem bytesLe_toNat_inj {w w' : BitVec 80} : bytesLe w.toNat 10 = bytesLe w'.toNat 10 ↔ w = w' := by
  refine ⟨fun h => BitVec.eq_of_toNat_eq ?_, fun h => h ▸ rfl⟩
  rw [← intLe_bytesLe_toNat (n := 10) w, ← intLe_bytesLe_toNat (n := 10) w', h]

theorem bitField_single (n i : Nat) : bitField n i i = (n.testBit i).toNat := by
  rw [bitField, Nat.sub_self, Nat.zero_add, Nat.pow_one, Nat.toNat_testBit, Nat.shiftRight_eq_div_pow]

theorem bitField_byte (w : BitVec 80) (k : Nat) :
    bitField w.toNat (10 * k + 8) (10 * k + 1) = (dataByte w k).toNat := by
  have hwidth : 10 * k + 8 - (10 * k + 1) + 1 = 8 := by omega
  rw [bitField, hwidth, dataByte, BitVec.extractLsb'_toNat]

theorem framed_iff_bitField (w : BitVec 80) :
    Framed 8 w ↔
      (∀ k, k < 8 → bitField w.toNat (10 * k) (10 * k) = 0) ∧
        ∀ k, k < 8 → bitField w.toNat (10 * k + 9) (10 * k + 9) = 1 := by
  simp only [Framed, bitField_single, BitVec.testBit_toNat, Bool.toNat_eq_zero, Bool.toNat_eq_one, imp_and,
    forall_and]

theorem payload7_dataByte (w : BitVec 80) :
    payload7 (dataByte w 0) (dataByte w 1) (dataByte w 2) (w80Value w) = (List.range 7).map (dataByte w) := by
  rw [payload7, w80Value_eq, valueBytes_append]
  rfl

/-- A word is a layout of R53 exactly when it is framed and its units hold the layout's fields. -/
theorem eq_w80Word_iff {w : BitVec 80} {s a e : Byte} {v : Word} {c : Byte} :
    w = w80Word s a e v c ↔
      Framed 8 w ∧ dataByte w 0 = s ∧ dataByte w 1 = a ∧ dataByte w 2 = e ∧ dataByte w 7 = c ∧ v = w80Value w := by
  constructor
  · rintro rfl
    refine ⟨framed_of_toNat_eq (toNat_w80Word s a e v c), ?_, ?_, ?_, ?_, (w80Value_w80Word s a e v c).symm⟩
    all_goals exact dataByte_w80Word s a e v c (by decide)
  · rintro ⟨hframed, rfl, rfl, rfl, rfl, rfl⟩
    exact (w80Word_dataByte hframed).symm

/-- A word is the frame of v exactly when it is framed, has the expected bytes and v, and its last byte is the CRC of
the seven before it. -/
theorem bytesLe_eq_frame8_iff {w : BitVec 80} {es ea erb : Byte} {v : Word} :
    bytesLe w.toNat 10 = frame8 es ea erb v ↔
      Framed 8 w ∧ dataByte w 0 = es ∧ dataByte w 1 = ea ∧ dataByte w 2 = erb ∧
        dataByte w 7 = crc8 ((List.range 7).map (dataByte w)) ∧ v = w80Value w := by
  rw [frame8_eq_bytesLe, bytesLe_toNat_inj, eq_w80Word_iff, ← payload7_dataByte]
  refine and_congr_right fun _ => ?_
  constructor <;> rintro ⟨rfl, rfl, rfl, hcrc, rfl⟩ <;> exact ⟨rfl, rfl, rfl, hcrc, rfl⟩

/-- Settles O38: a ten-byte sequence is an 80-bit word, and the checks are its framing and its fields. -/
theorem decoderAcceptsExactlyByTheSevenChecks : Obligations.DecoderAcceptsExactlyByTheSevenChecks := by
  intro data es ea erb v
  rw [decodeResponse_eq_some_iff]
  by_cases hlen : data.length = 10
  · obtain ⟨w, rfl⟩ := eq_bytesLe_of_length_eq_ten hlen
    have hbyte : ∀ k, BitVec.ofNat 8 (dataByte w k).toNat = dataByte w k := fun k => by
      rw [BitVec.ofNat_toNat, BitVec.setWidth_eq]
    rw [bytesLe_eq_frame8_iff, framed_iff_bitField, intLe_bytesLe_toNat (n := 10), extractValue_toNat,
      bitField_byte w 0, bitField_byte w 1, bitField_byte w 2, bitField_byte w 7]
    simp only [bitField_byte, hbyte, BitVec.toNat_inj, hlen, true_and, and_assoc]
  · refine ⟨fun h => absurd ?_ hlen, fun h => absurd h.1 hlen⟩
    rw [h, length_frame8]

/-! ### A single changed bit (R79 (c)) -/

theorem getLsbD_getElem_eq_testBit_intLe (s : List Byte) {i b : Nat} (hi : i < s.length) (hb : b < 8) :
    s[i].getLsbD b = (intLe s).testBit (8 * i + b) := by
  have hbyte := getElem_bytesLe (intLe s) s.length i (by simpa using hi)
  simp only [bytesLe_intLe] at hbyte
  rw [hbyte, BitVec.getLsbD_ofNat, decide_eq_true hb, Bool.true_and, Nat.testBit_shiftRight]

/-- Flipping bit k of a sequence changes bit k of its integer and no other. -/
theorem testBit_intLe_flipBit {s : List Byte} {k i : Nat} (hk : k < 8 * s.length) (hi : i < 8 * s.length) :
    (intLe (Claims.flipBit s k)).testBit i = ((intLe s).testBit i ^^ decide (i = k)) := by
  have hkbyte : k / 8 < s.length := by omega
  have hibyte : i / 8 < s.length := by omega
  have hbit : i % 8 < 8 := Nat.mod_lt i (by decide)
  have hflip := getLsbD_getElem_eq_testBit_intLe (Claims.flipBit s k) (by simpa [Claims.flipBit] using hibyte) hbit
  have hold := getLsbD_getElem_eq_testBit_intLe s hibyte hbit
  rw [Nat.div_add_mod] at hflip hold
  rw [← hflip, ← hold]
  simp only [flipBit_eq_set hkbyte, List.getElem_set]
  split
  · next hsame =>
    have hpos : k % 8 = i % 8 ↔ i = k := by omega
    simp only [hsame, BitVec.getLsbD_xor, BitVec.getLsbD_ofNat, Nat.testBit_two_pow, hpos, hbit, decide_true,
      Bool.true_and]
  · next hother =>
    have hne : i ≠ k := fun h => hother (h ▸ rfl)
    rw [decide_eq_false hne, Bool.xor_false]

/-- Two payloads of one length that, with their CRCs, differ in one byte at most are equal. -/
theorem eq_of_crc_appended_agree_off {p p' : List Byte} {j : Nat} (hlen : p.length = p'.length)
    (h : ∀ i, i ≠ j → (p ++ [crc8 p])[i]? = (p' ++ [crc8 p'])[i]?) : p = p' := by
  have hbyte : ∀ i (hi : i < p.length) (hi' : i < p'.length), i ≠ j → p[i] = p'[i] := by
    intro i hi hi' hij
    simpa [List.getElem?_append_left, hi, hi'] using h i hij
  by_cases hj : j < p.length
  · have hj' : j < p'.length := hlen ▸ hj
    have hcrc : crc8 p = crc8 p' := by simpa [hlen] using h p.length (by omega)
    have hset : p.set j p'[j] = p' := by
      refine List.ext_getElem (by simpa using hlen) fun i hi hi' => ?_
      rw [List.getElem_set]
      split
      · next hji => subst hji; rfl
      · next hji => exact hbyte i (by omega) hi' (Ne.symm hji)
    by_contra hne
    refine crc8_set_ne hj (b := p'[j]) (fun hb => hne ?_) (hset ▸ hcrc.symm)
    rw [← hset, hb, List.set_getElem_self]
  · exact List.ext_getElem hlen fun i hi hi' => hbyte i hi hi' (by omega)

/-- Two frames whose integers agree outside one unit carry one payload. -/
theorem eq_of_intLe_frameOf_agree_off {p p' : List Byte} {j : Nat} (hlen : p.length = p'.length)
    (h : ∀ i, i < 10 * (p.length + 1) → i / 10 ≠ j →
      (intLe (frameOf p)).testBit i = (intLe (frameOf p')).testBit i) : p = p' := by
  simp only [frameOf, intLe_stuff] at h
  have hlen' : (p ++ [crc8 p]).length = (p' ++ [crc8 p']).length := by simp [hlen]
  refine eq_of_crc_appended_agree_off (j := j) hlen fun i hij => ?_
  by_cases hi : i < (p ++ [crc8 p]).length
  · rw [List.getElem?_eq_getElem hi, List.getElem?_eq_getElem (hlen' ▸ hi)]
    refine congrArg some (getElem_eq_of_testBit_streamInt hi (hlen' ▸ hi) fun n hn => h n ?_ (hn ▸ hij))
    rw [List.length_append, List.length_singleton] at hi
    omega
  · rw [List.getElem?_eq_none (not_lt.1 hi), List.getElem?_eq_none (hlen' ▸ not_lt.1 hi)]

/-- Settles O40: a flipped frame that decoded would be a frame of the same expected bytes that agrees with it outside
one unit, hence the frame itself, bit k included. -/
theorem everySingleBitCorruptionIsRefused : Obligations.EverySingleBitCorruptionIsRefused := by
  intro es ea erb v k hk
  cases hd : decodeResponse (Claims.flipBit (frame8 es ea erb v) k) es ea erb with
  | none => rfl
  | some v' =>
    have hbits : ∀ i, i < 80 →
        (intLe (frame8 es ea erb v')).testBit i = ((intLe (frame8 es ea erb v)).testBit i ^^ decide (i = k)) := by
      intro i hi
      rw [← decodeResponse_eq_some hd]
      exact testBit_intLe_flipBit (by rwa [length_frame8]) (by rwa [length_frame8])
    have hpayload : payload7 es ea erb v' = payload7 es ea erb v := by
      refine eq_of_intLe_frameOf_agree_off (j := k / 10) rfl fun i hi hunit => (hbits i hi).trans ?_
      have hne : i ≠ k := fun h => hunit (h ▸ rfl)
      rw [decide_eq_false hne, Bool.xor_false, frame8]
    have hsame := hbits k hk
    rw [frame8, hpayload, ← frame8] at hsame
    simp at hsame

/-! ### The operations (R70, R72, R74, R77) -/

/-- Settles O13: the one test is of ILEN, and at most eight bytes are stuffed into ten. -/
theorem stuffWritesTheWireBytesOfTheInput : Obligations.StuffWritesTheWireBytesOfTheInput := by
  refine ⟨rfl, fun s hs => ⟨fun hlen => ?_, fun hlen => ?_⟩⟩
  · have hstuff : (stuff s.inputSeq).length = (10 * s.ilen.toNat + 7) / 8 := by
      rw [length_stuff, State.length_inputSeq]
    refine ⟨(s.putResult (stuff s.inputSeq)).obuf, ?_, hstuff,
      State.holdsResult_putResult hs (length_stuff_inputSeq_le hlen)⟩
    rw [exec_stuff, if_neg (not_lt.2 hlen), State.putResult, hstuff]
    rfl
  · rw [exec_stuff, if_pos hlen, raise_eq]
    rfl

/-- Settles O14: ENCRD does what the read-request row does with the operands SYNC, ADDR and REG hold. -/
theorem encrdBuildsTheReadRequest : Obligations.EncrdBuildsTheReadRequest := by
  refine ⟨rfl, fun s hs => ?_⟩
  obtain ⟨m, hexec, hresult, -⟩ := frameReadRequestBuildsItsWord s s.sync s.addr s.reg 0 hs
  exact ⟨m, hexec, hresult⟩

/-- Settles O15: ENCWR does what the write-request row does with the operands SYNC, ADDR, REG and WVAL hold. -/
theorem encwrBuildsTheWriteRequest : Obligations.EncwrBuildsTheWriteRequest := by
  refine ⟨rfl, fun s hs => ?_⟩
  obtain ⟨m, hexec, hread, hbeyond, -⟩ := frameWriteRequestBuildsItsWord s s.sync s.addr s.reg s.wval 0 hs
  rw [← writeRegByte_eq, payload7, valueBytes_eq] at hexec
  rw [← writeRegByte_eq] at hread
  exact ⟨m, hexec, hread, hbeyond⟩

theorem checkResponse_of_none {s : State} (h : s.responseValue = none) :
    checkResponse s = { s with rvalid := 0, rval := 0, err := 1 } := by
  rw [checkResponse_eq, h]
  rfl

theorem checkResponse_of_some {s : State} {v : Word} (h : s.responseValue = some v) :
    checkResponse s = { s with rval := v, rvalid := 1, err := 0 } := by
  rw [checkResponse_eq, h]
  rfl

/-- Settles O16: the length test comes first, then the decoder says which of the two ends it is. -/
theorem decrdAcceptsOrAnswersNoValue : Obligations.DecrdAcceptsOrAnswersNoValue := by
  refine ⟨rfl, fun s => ⟨fun hlen => ?_, fun v hlen hv => ?_, fun hlen hnone => ?_⟩⟩
  · exact congrArg _ (checkResponse_of_none (if_neg hlen))
  · exact congrArg _ (checkResponse_of_some ((if_pos hlen).trans hv))
  · exact congrArg _ (checkResponse_of_none ((if_pos hlen).trans hnone))

/-! ### Received bytes checked (R30, R77) -/

/-- Ten bytes loaded are the ones the decoder is given. -/
theorem State.responseValue_loadInput {s : State} (hs : s.ibuf.wf = true) {bs : List Byte}
    (hlen : bs.length = Config.wrWire) :
    (s.loadInput bs).responseValue = decodeResponse bs s.sync s.addr s.ereg := by
  have hilen : (s.loadInput bs).ilen.toNat = Config.wrWire := by
    rw [State.loadInput_ilen, hlen]
    rfl
  have hread := State.readSeq_loadInput hs bs
  rw [hlen] at hread
  rw [State.responseValue, if_pos hilen, hread]
  rfl

/-- Ten bytes loaded: IBUF[0..9] hold them, ILEN is 10, and the rest of IBUF stays. -/
theorem State.loadInput_ten {s : State} (hs : s.ibuf.wf = true) {bs : List Byte} (hlen : bs.length = Config.wrWire) :
    ∃ m, s.loadInput bs = { s with ibuf := m, ilen := 10 } ∧ m.readSeq 0 10 = bs ∧
      ∀ j, 10 ≤ j → m.read j = s.ibuf.read j := by
  obtain ⟨-, hbytes⟩ := hostBufferMovesStoreTheirBytes s hs
  have hle : bs.length ≤ Config.ibufCap := hlen.trans_le (by decide)
  obtain ⟨m, hmove, hread, hbeyond⟩ := hbytes bs hle
  rw [hlen] at hmove hread hbeyond
  exact ⟨m, Host.Outcome.next.inj ((hostMove_writeBytes hle s).symm.trans hmove), hread, hbeyond⟩

theorem exec_decrd_of_some {s : State} {v : Word} (h : s.responseValue = some v) :
    ∃ u, exec .decrd s = .next u ∧ u.rvalid = 1 ∧ u.rval = v ∧ u.err = 0 :=
  ⟨_, congrArg Host.Outcome.next (checkResponse_of_some h), rfl, rfl, rfl⟩

/-- Settles O41: ENCWR leaves the frame in OBUF, and DECRD expects the bytes that frame was built from. -/
theorem encwrThenDecrdReturnsTheValue : Obligations.EncwrThenDecrdReturnsTheValue := by
  rintro s ⟨hiwf, -, howf, -⟩
  have hread : (buildWriteRequest s).obuf.readSeq 0 10 = frame8 s.sync s.addr (writeRegByte s.reg) s.wval := by
    have h := State.readSeq_length_putResult howf (length_frame8_le s.sync s.addr (writeRegByte s.reg) s.wval)
    rwa [length_frame8] at h
  have hloaded := State.responseValue_loadInput (s := { buildWriteRequest s with ereg := writeRegByte s.reg }) hiwf
    (length_frame8 s.sync s.addr (writeRegByte s.reg) s.wval)
  obtain ⟨u, hdecrd, hvalue⟩ := exec_decrd_of_some (hloaded.trans (decodeResponse_frame8 _ _ _ _))
  refine ⟨buildWriteRequest s, u, exec_encwr s, ?_, hvalue⟩
  rw [hread]
  exact hdecrd

theorem w80Word_inj {s a e s' a' e' c c' : Byte} {v v' : Word} :
    w80Word s a e v c = w80Word s' a' e' v' c' ↔ (s = s' ∧ a = a' ∧ e = e' ∧ v = v') ∧ c = c' := by
  refine ⟨fun h => ?_, fun ⟨⟨hs, ha, he, hv⟩, hc⟩ => by rw [hs, ha, he, hv, hc]⟩
  have hstream : streamInt (payload7 s a e v ++ [c]) = streamInt (payload7 s' a' e' v' ++ [c']) := by
    rw [← toNat_w80Word, ← toNat_w80Word, h]
  obtain ⟨hpayload, hcrc⟩ := List.append_inj (streamInt_inj (by simp) hstream) rfl
  exact ⟨payload7_inj.1 hpayload, List.singleton_inj.1 hcrc⟩

/-- The word of a response row decodes exactly when its bytes are the expected ones and its CRC byte is right. -/
theorem decodeResponse_encode_iff {es ea erb s a e c : Byte} {v v' : Word} :
    decodeResponse (encode (.frameReadResponse s a e v c)) es ea erb = some v' ↔
      (s = es ∧ a = ea ∧ e = erb ∧ c = crc8 (payload7 s a e v)) ∧ v = v' := by
  rw [decodeResponse_eq_some_iff, frame8_eq_bytesLe, encode, bytesLe_toNat_inj, w80Word_inj]
  constructor
  · rintro ⟨⟨rfl, rfl, rfl, rfl⟩, hcrc⟩
    exact ⟨⟨rfl, rfl, rfl, hcrc⟩, rfl⟩
  · rintro ⟨⟨rfl, rfl, rfl, hcrc⟩, rfl⟩
    exact ⟨⟨rfl, rfl, rfl, rfl⟩, hcrc⟩

/-- Settles O23: the row's word is loaded and checked, and it decodes exactly when its fields are the expected ones. -/
theorem frameReadResponseIsCheckedFieldByField : Obligations.FrameReadResponseIsCheckedFieldByField := by
  intro s sy a e v c hs
  have hlen : (encode (.frameReadResponse sy a e v c)).length = Config.wrWire := length_bytesLe _ _
  have hvalue := State.responseValue_loadInput hs hlen
  obtain ⟨m, hload, hread, hbeyond⟩ := State.loadInput_ten hs hlen
  have hexec : exec (.frameReadResponse sy a e v c) s = .next (checkResponse { s with ibuf := m, ilen := 10 }) := by
    rw [← hload]
    exact exec_frameReadResponse sy a e v c s
  rw [hload] at hvalue
  refine ⟨m, hread, hbeyond, fun hfields => ?_, fun hfields => ?_⟩
  · rw [hexec, checkResponse_of_some (hvalue.trans (decodeResponse_encode_iff.2 ⟨hfields, rfl⟩))]
  · have hnone : decodeResponse (encode (.frameReadResponse sy a e v c)) s.sync s.addr s.ereg = none :=
      Option.eq_none_iff_forall_ne_some.2 fun _ h => hfields (decodeResponse_encode_iff.1 h).1
    rw [hexec, checkResponse_of_none (hvalue.trans hnone)]

end Sys2Proof.Machine

/-! SUPPORT. The layer the obligations about the quantizer (spec/42_quantizer.md) are proved from. A code is at least n
exactly when level n is reached; a level is reached when the real code of R81 is at least n - 1/2, and it is never
exactly that. -/

namespace Sys2Proof.Machine

/-! ### Reached levels (R83) -/

/-- What √2 * P grows by from one code of a mode to the next. -/
def levelStep (hs : BitVec 1) : Nat := if hs = 0 then 10000 else 5625

theorem levelStep_high_le_low : levelStep 1 ≤ levelStep 0 := by decide

theorem levelStep_pos (hs : BitVec 1) : 0 < levelStep hs := by
  unfold levelStep
  split <;> decide

/-- R83's two tests as one, over the step of the mode. -/
theorem reach_iff {n P : Nat} {hs : BitVec 1} :
    reach n P hs = true ↔ (levelStep hs * (2 * n + 1)) ^ 2 ≤ 2 * (2 * P) ^ 2 := by
  unfold reach levelStep
  split
  all_goals
    rw [decide_eq_true_iff]
    exact ⟨fun h => by linarith, fun h => by linarith⟩

/-- A level that is reached stays reached at a lower level, a larger current or resistance, or a smaller step. -/
theorem reach_mono {m n P Q : Nat} {hs hs' : BitVec 1} (hmn : m ≤ n) (hPQ : P ≤ Q)
    (hstep : levelStep hs' ≤ levelStep hs) (h : reach n P hs = true) : reach m Q hs' = true := by
  rw [reach_iff] at h ⊢
  calc (levelStep hs' * (2 * m + 1)) ^ 2
      ≤ (levelStep hs * (2 * n + 1)) ^ 2 := by gcongr
    _ ≤ 2 * (2 * P) ^ 2 := h
    _ ≤ 2 * (2 * Q) ^ 2 := by gcongr

theorem power_le_power {i i' r r' : BitVec 16} (hi : i.toNat ≤ i'.toNat) (hr : r.toNat ≤ r'.toNat) :
    power i r ≤ power i' r' :=
  Nat.mul_le_mul hi (Nat.add_le_add_right hr 20)

/-- Counting a predicate that, once false, stays false, finds where it becomes false. -/
theorem lt_countP_range_iff {p : Nat → Bool} (hp : ∀ m n, m ≤ n → p n = true → p m = true) (N k : Nat) :
    k < (List.range N).countP p ↔ k < N ∧ p k = true := by
  induction N with
  | zero => simp
  | succ N ih =>
    rw [List.range_succ, List.countP_append, List.countP_singleton]
    by_cases hN : p N = true
    · have hall : (List.range N).countP p = N := by
        simpa using List.countP_eq_length.2 fun k hk => hp k N (List.mem_range.1 hk).le hN
      rw [hall, if_pos hN]
      exact ⟨fun hk => ⟨hk, hp k N (by omega) hN⟩, And.left⟩
    · rw [if_neg hN, Nat.add_zero, ih]
      refine ⟨fun ⟨hk, h⟩ => ⟨by omega, h⟩, fun ⟨hk, h⟩ => ⟨?_, h⟩⟩
      have hne : k ≠ N := fun heq => hN (heq ▸ h)
      omega

theorem toNat_quantize_le (i r : BitVec 16) (hs : BitVec 1) : (quantize i r hs).toNat ≤ 31 :=
  Nat.le_of_lt_succ (quantize i r hs).isLt

theorem toNat_quantize (i r : BitVec 16) (hs : BitVec 1) :
    (quantize i r hs).toNat = (List.range 31).countP fun k => reach (k + 1) (power i r) hs := by
  have hle : quantizeNat (power i r) hs ≤ 31 := List.countP_le_length.trans_eq List.length_range
  rw [quantize, BitVec.toNat_ofNat]
  exact Nat.mod_eq_of_lt (by omega)

/-- The code is at least n exactly when level n is reached. -/
theorem le_quantize_iff {i r : BitVec 16} {hs : BitVec 1} {n : Nat} (hn : 0 < n) :
    n ≤ (quantize i r hs).toNat ↔ n ≤ 31 ∧ reach n (power i r) hs = true := by
  obtain ⟨k, rfl⟩ := Nat.exists_eq_add_of_lt hn
  rw [Nat.zero_add, toNat_quantize, Nat.succ_le_iff,
    lt_countP_range_iff (p := fun k => reach (k + 1) (power i r) hs)
      fun _ _ h => reach_mono (Nat.succ_le_succ h) le_rfl le_rfl]
  exact Iff.rfl

/-- Settles O44: both directions read `le_quantize_iff` at the code and at the levels above it. -/
theorem codeIsTheLargestReachedLevel : Obligations.CodeIsTheLargestReachedLevel := by
  intro i r hs n
  rw [← power]
  constructor
  · rintro rfl
    refine ⟨toNat_quantize_le i r hs, ?_, fun k hk hk31 => ?_⟩
    · exact (Nat.eq_zero_or_pos _).imp_right fun hpos => ((le_quantize_iff hpos).1 le_rfl).2
    · exact Bool.eq_false_iff.2 fun hreach => hk.not_ge ((le_quantize_iff (by omega)).2 ⟨hk31, hreach⟩)
  · rintro ⟨hn, hreach, habove⟩
    apply le_antisymm
    · by_contra! hlt
      obtain ⟨hnext, hreached⟩ := (le_quantize_iff (Nat.succ_pos n)).1 (Nat.succ_le_of_lt hlt)
      exact Bool.eq_false_iff.1 (habove _ n.lt_succ_self hnext) hreached
    · rcases Nat.eq_zero_or_pos n with rfl | hpos
      · exact Nat.zero_le _
      · exact (le_quantize_iff hpos).2 ⟨hn, hreach.resolve_left hpos.ne'⟩

/-! ### Monotonicity and the selection (R85, R87) -/

/-- The code grows with the current, the resistance and the sensitivity. -/
theorem toNat_quantize_mono {i i' r r' : BitVec 16} {hs hs' : BitVec 1} (hi : i.toNat ≤ i'.toNat)
    (hr : r.toNat ≤ r'.toNat) (hstep : levelStep hs' ≤ levelStep hs) :
    (quantize i r hs).toNat ≤ (quantize i' r' hs').toNat := by
  rcases Nat.eq_zero_or_pos (quantize i r hs).toNat with h0 | hpos
  · exact h0.trans_le (Nat.zero_le _)
  · obtain ⟨hle, hreach⟩ := (le_quantize_iff hpos).1 le_rfl
    exact (le_quantize_iff hpos).2 ⟨hle, reach_mono le_rfl (power_le_power hi hr) hstep hreach⟩

/-- Settles O45: a larger P and a smaller step keep every reached level. -/
theorem codesAreMonotone : Obligations.CodesAreMonotone := fun _ _ _ _ _ hi hr =>
  ⟨toNat_quantize_mono hi hr le_rfl, toNat_quantize_mono le_rfl le_rfl levelStep_high_le_low⟩

/-- R87 (f): level 29 in high mode lies above level 16 in low mode. -/
theorem quantize_high_le_of_low_lt {i r : BitVec 16} (h : (quantize i r 0).toNat < switchBelow) :
    (quantize i r 1).toNat ≤ 28 := by
  by_contra! hlt
  obtain ⟨-, hhigh⟩ := (le_quantize_iff (by decide)).1 (Nat.succ_le_of_lt hlt)
  refine h.not_ge ((le_quantize_iff (by decide)).2 ⟨by decide, ?_⟩)
  rw [reach_iff] at hhigh ⊢
  exact le_trans (by decide) hhigh

theorem selectMode_of_lt {irun ihold r : BitVec 16} (hrun : (quantize irun r 0).toNat < switchBelow)
    (hhold : (quantize ihold r 0).toNat < switchBelow) : selectMode irun ihold r = 1 :=
  if_pos ⟨hrun, hhold⟩

theorem selectMode_of_le {irun ihold r : BitVec 16}
    (h : switchBelow ≤ (quantize irun r 0).toNat ∨ switchBelow ≤ (quantize ihold r 0).toNat) :
    selectMode irun ihold r = 0 :=
  if_neg (by omega)

/-- R87 (d): a hold current that is not above the run current does not decide the mode. -/
theorem selectMode_eq_one_iff {irun ihold : BitVec 16} (r : BitVec 16) (h : ihold.toNat ≤ irun.toNat) :
    selectMode irun ihold r = 1 ↔ (quantize irun r 0).toNat < switchBelow := by
  rcases lt_or_ge (quantize irun r 0).toNat switchBelow with hlt | hge
  · exact iff_of_true (selectMode_of_lt hlt ((toNat_quantize_mono h le_rfl le_rfl).trans_lt hlt)) hlt
  · rw [selectMode_of_le (.inl hge)]
    exact iff_of_false (by decide) hge.not_gt

/-- The normal end of QSEL, in the mode that is chosen. -/
theorem exec_qsel_of_hold_le {s : State} (h : s.ihold.toNat ≤ s.irun.toNat) {hs : BitVec 1}
    (hmode : selectMode s.irun s.ihold s.rsense = hs) :
    exec .qsel s = .next { s with
      qrun := quantize s.irun s.rsense hs, qhold := quantize s.ihold s.rsense hs, qhs := hs, err := 0 } := by
  subst hmode
  rw [exec_qsel, if_neg (not_lt.2 h)]
  rfl

/-- Settles O46: both codes are taken in one mode, and high mode means a low run code below 16. -/
theorem qselKeepsItsCodesInRange : Obligations.QselKeepsItsCodesInRange := by
  intro s hle
  have hhigh := selectMode_eq_one_iff s.rsense hle
  generalize hmode : selectMode s.irun s.ihold s.rsense = hs at hhigh
  refine ⟨_, exec_qsel_of_hold_le hle hmode, rfl, toNat_quantize_mono hle le_rfl le_rfl, hhigh, ?_⟩
  rintro rfl
  exact quantize_high_le_of_low_lt (hhigh.1 rfl)

/-- Settles O17: it is what QUANT's equation says. -/
theorem quantWritesTheCodeAndItsMode : Obligations.QuantWritesTheCodeAndItsMode := ⟨rfl, exec_quant⟩

/-- Settles O18: the hold current is refused or not, then the low codes choose the mode. -/
theorem qselChoosesTheModeAndQuantizesBoth : Obligations.QselChoosesTheModeAndQuantizesBoth := by
  refine ⟨rfl, fun s => ⟨fun hlt => ?_, fun hle hrun hhold => ?_, fun hle hor => ?_⟩⟩
  · rw [exec_qsel, if_pos hlt, raise_eq]
    rfl
  · exact exec_qsel_of_hold_le hle (selectMode_of_lt hrun hhold)
  · exact exec_qsel_of_hold_le hle (selectMode_of_le hor)

/-! ### The real formula (R81, R82) -/

theorem natCast_le_sqrt_two_mul_iff (a b : Nat) : (a : ℝ) ≤ √2 * b ↔ a ^ 2 ≤ 2 * b ^ 2 := by
  rw [← sq_le_sq₀ (by positivity) (by positivity), mul_pow, Real.sq_sqrt (by norm_num)]
  exact_mod_cast Iff.rfl

theorem natCast_ne_sqrt_two_mul {a : Nat} (ha : 0 < a) (b : Nat) : (a : ℝ) ≠ √2 * b := by
  rcases Nat.eq_zero_or_pos b with rfl | hb
  · simpa using ha.ne'
  · exact ((irrational_sqrt_two.mul_natCast hb.ne').ne_nat a).symm

/-- The x of R81 for operands of the block: R81's formula with its constants multiplied out. -/
noncomputable def realCode (i r : BitVec 16) (hs : BitVec 1) : ℝ := √2 * power i r / levelStep hs - 1

theorem realCode_low (i r : BitVec 16) :
    32 * ((i.toNat : ℝ) / 1000) * ((r.toNat : ℝ) / 1000 + 20 / 1000) * √2 / (32 / 100) - 1 = realCode i r 0 := by
  simp only [realCode, power, levelStep]
  push_cast
  ring

theorem realCode_high (i r : BitVec 16) :
    32 * ((i.toNat : ℝ) / 1000) * ((r.toNat : ℝ) / 1000 + 20 / 1000) * √2 / (18 / 100) - 1 = realCode i r 1 := by
  simp only [realCode, power, levelStep]
  push_cast
  ring

/-- The distance of the real code from n - 1/2, cleared of fractions. -/
theorem mul_realCode_sub_half (i r : BitVec 16) (hs : BitVec 1) (n : Nat) :
    2 * (levelStep hs : ℝ) * (realCode i r hs - ((n : ℝ) - 1 / 2)) =
      √2 * ((2 * power i r : Nat) : ℝ) - ((levelStep hs * (2 * n + 1) : Nat) : ℝ) := by
  have hstep : (levelStep hs : ℝ) ≠ 0 := Nat.cast_ne_zero.2 (levelStep_pos hs).ne'
  rw [realCode]
  push_cast
  field_simp
  ring

/-- Level n is reached when the real code is at least n - 1/2. -/
theorem reach_iff_le_realCode {i r : BitVec 16} {hs : BitVec 1} {n : Nat} :
    reach n (power i r) hs = true ↔ (n : ℝ) - 1 / 2 ≤ realCode i r hs := by
  have hstep : (0 : ℝ) < 2 * levelStep hs := mul_pos two_pos (Nat.cast_pos.2 (levelStep_pos hs))
  rw [reach_iff, ← natCast_le_sqrt_two_mul_iff, ← sub_nonneg, ← mul_realCode_sub_half,
    mul_nonneg_iff_of_pos_left hstep, sub_nonneg]

/-- R82: the real code is never halfway between two integers, since √2 is irrational. -/
theorem sub_half_ne_realCode (i r : BitVec 16) (hs : BitVec 1) (n : Nat) : (n : ℝ) - 1 / 2 ≠ realCode i r hs := by
  intro h
  have hzero := mul_realCode_sub_half i r hs n
  rw [← h, sub_self, mul_zero] at hzero
  have hpos : 0 < levelStep hs * (2 * n + 1) := Nat.mul_pos (levelStep_pos hs) (Nat.succ_pos _)
  exact natCast_ne_sqrt_two_mul hpos _ (sub_eq_zero.1 hzero.symm).symm

theorem reach_iff_lt_realCode {i r : BitVec 16} {hs : BitVec 1} {n : Nat} :
    reach n (power i r) hs = true ↔ (n : ℝ) - 1 / 2 < realCode i r hs :=
  reach_iff_le_realCode.trans (sub_half_ne_realCode i r hs n).le_iff_lt

/-- An integer whose lower bounds are the reached levels gives, clamped, the code. -/
theorem quantize_eq_clamp {i r : BitVec 16} {hs : BitVec 1} {z : ℤ}
    (hz : ∀ n : Nat, reach n (power i r) hs = true ↔ (n : ℤ) ≤ z) :
    ((quantize i r hs).toNat : ℤ) = max 0 (min 31 z) := by
  have hle := toNat_quantize_le i r hs
  have hcode : ∀ n : Nat, 0 < n → (n ≤ (quantize i r hs).toNat ↔ n ≤ 31 ∧ (n : ℤ) ≤ z) := fun n hn => by
    rw [le_quantize_iff hn, hz]
  have hreached := hcode (quantize i r hs).toNat
  have hnext := hcode ((quantize i r hs).toNat + 1) (Nat.succ_pos _)
  omega

theorem quantize_eq_clamped_round_half_up (i r : BitVec 16) (hs : BitVec 1) :
    ((quantize i r hs).toNat : ℤ) = max 0 (min 31 ⌊realCode i r hs + 1 / 2⌋) :=
  quantize_eq_clamp fun n => by rw [reach_iff_le_realCode, Int.le_floor, Int.cast_natCast, sub_le_iff_le_add]

theorem quantize_eq_clamped_round_half_down (i r : BitVec 16) (hs : BitVec 1) :
    ((quantize i r hs).toNat : ℤ) = max 0 (min 31 ⌈realCode i r hs - 1 / 2⌉) :=
  quantize_eq_clamp fun n => by
    rw [reach_iff_lt_realCode, Int.le_ceil_iff, Int.cast_natCast, lt_sub_iff_add_lt, sub_add, sub_half]

/-- Settles O42: the levels up to `⌊x + 1/2⌋` are the reached ones. -/
theorem quantizeIsTheRealFormula : Obligations.QuantizeIsTheRealFormula := by
  intro i r
  rw [realCode_low, realCode_high]
  exact ⟨quantize_eq_clamped_round_half_up i r 0, quantize_eq_clamped_round_half_up i r 1⟩

/-- Settles O43: no real code is halfway, so rounding half down finds the same levels reached. -/
theorem roundingHalfDownGivesTheSameCode : Obligations.RoundingHalfDownGivesTheSameCode := by
  intro i r
  rw [realCode_low, realCode_high]
  exact ⟨quantize_eq_clamped_round_half_down i r 0, quantize_eq_clamped_round_half_down i r 1⟩

end Sys2Proof.Machine

/-! SUPPORT. The layer the obligations about the conditions and the host session (spec/60_exceptions.md) are proved
from. One attempt of a read and the sending of a write request are exchanges: the block sends some frames, replies are
used up, and nothing else of the session changes. Exchanges compose, and the loops are sequences of them. -/

namespace Sys2Proof.Machine

open Sys2Proof.Claims

/-! ### Conditions (R91, R92) -/

/-- Settles O20: each condition is one arm of `raise`. -/
theorem raiseWritesOnlyWhatTheConditionNames : Obligations.RaiseWritesOnlyWhatTheConditionNames :=
  fun _ => ⟨rfl, rfl, rfl, rfl⟩

/-- ERR after an operation that first tests an operand against its bound. -/
theorem err_ite_raise (a b : Nat) (c : Condition) (s t : State) :
    (if a > b then raise c s else t).err = if a ≤ b then t.err else c.code := by
  by_cases h : a ≤ b
  · rw [if_neg (not_lt.2 h), if_pos h]
  · rw [if_pos (not_le.1 h), if_neg h, raise_err]

theorem extractValue_intLe_frame8 (s a rb : Byte) (v : Word) : extractValue (intLe (frame8 s a rb v)) = v := by
  rw [intLe_frame8, extractValue_toNat, w80Value_w80Word]

theorem State.responseValue_eq_some_iff {s : State} {v : Word} :
    s.responseValue = some v ↔ s.ilen.toNat = 10 ∧ s.ibuf.readSeq 0 10 = frame8 s.sync s.addr s.ereg v := by
  rw [State.responseValue, Option.ite_none_right_eq_some, decodeResponse_eq_some_iff]

theorem err_checkResponse (s : State) :
    (checkResponse s).err =
      if s.ilen.toNat = 10 ∧
          s.ibuf.readSeq 0 10 = frame8 s.sync s.addr s.ereg (extractValue (intLe (s.ibuf.readSeq 0 10)))
      then 0 else 1 := by
  rcases checkResponse_cases s with ⟨hnone, hraise⟩ | ⟨v, hv, haccept⟩
  · have hno := fun v => mt State.responseValue_eq_some_iff.2 (Option.eq_none_iff_forall_ne_some.1 hnone v)
    rw [hraise, raise_err, if_neg (hno _)]
    rfl
  · obtain ⟨hlen, hframe⟩ := State.responseValue_eq_some_iff.1 hv
    have hvalue := extractValue_intLe_frame8 s.sync s.addr s.ereg v
    rw [← hframe] at hvalue
    rw [haccept, State.done_err, if_pos ⟨hlen, hvalue.symm ▸ hframe⟩]

/-- Settles O25: row by row, ERR is the code of the one test the operation makes, or 0. -/
theorem errShowsTheOutcomeOfEveryCommand : Obligations.ErrShowsTheOutcomeOfEveryCommand := by
  simp only [Obligations.ErrShowsTheOutcomeOfEveryCommand, errTable, List.forall_mem_cons]
  refine ⟨fun s => ?crc8, fun s => ?stuff, fun s => ?encrd, fun s => ?encwr, fun s => ?decrd, fun s => ?quant,
    fun s => ?qsel, fun s => ?reserved111, List.forall_mem_nil _⟩
  case crc8 => exact ⟨_, exec_crc8 s, err_ite_raise _ _ _ _ _⟩
  case stuff => exact ⟨_, exec_stuff s, err_ite_raise _ _ _ _ _⟩
  case encrd => exact ⟨_, exec_encrd s, State.done_err _⟩
  case encwr => exact ⟨_, exec_encwr s, State.done_err _⟩
  case decrd => exact ⟨_, exec_decrd s, err_checkResponse s⟩
  case quant => exact ⟨_, exec_quant s, State.done_err _⟩
  case qsel => exact ⟨_, exec_qsel s, err_ite_raise _ _ _ _ _⟩
  case reserved111 => exact ⟨_, exec_reserved111 s, raise_err _ s⟩

/-! ### Commands issued and results sent (R103) -/

theorem moved_issue {i : Instr} (hi : i.wellFormed = true) {s t : State} (h : exec i s = .next t) :
    moved s (.issue (encode i)) = t :=
  Host.Outcome.next.inj ((exec_eq_moved_issue hi s).symm.trans h)

/-- An operation's result sequence, once sent, is the last sequence sent (R29). -/
theorem sent_handOver_putResult {s : State} (hs : s.obuf.wf = true) {w : List Byte} (h : w.length ≤ Config.obufCap) :
    (s.putResult w).done.handOver.sent = s.sent ++ [w] :=
  congrArg (fun x => s.sent ++ [x]) (State.resultSeq_putResult hs h)

theorem sent_handOver_buildReadRequest {s : State} (hs : s.obuf.wf = true) :
    (buildReadRequest s).handOver.sent = s.sent ++ [frame4 s.sync s.addr (readRegByte s.reg)] :=
  sent_handOver_putResult (s := { s with crc := _ }) hs (length_frame4_le _ _ _)

theorem sent_handOver_buildWriteRequest {s : State} (hs : s.obuf.wf = true) :
    (buildWriteRequest s).handOver.sent = s.sent ++ [frame8 s.sync s.addr (writeRegByte s.reg) s.wval] :=
  sent_handOver_putResult (s := { s with crc := _ }) hs (length_frame8_le _ _ _ _)

/-- Settles O54: the move hands over the result sequence, and each of the three operations leaves its own there. -/
theorem sendHandsOverTheResultSequence : Obligations.SendHandsOverTheResultSequence := by
  refine fun s => ⟨rfl, fun hs => ⟨fun hlen => ?stuff, ?encrd, ?encwr⟩⟩
  case stuff =>
    have hexec : exec .stuff s = .next (s.putResult (stuff s.inputSeq)).done :=
      (exec_stuff s).trans (congrArg _ (if_neg (not_lt.2 hlen)))
    rw [runMoves_cons, moved_issue rfl hexec]
    exact sent_handOver_putResult hs (length_stuff_inputSeq_le hlen)
  case encrd =>
    rw [runMoves_cons, moved_issue rfl (exec_encrd s)]
    exact sent_handOver_buildReadRequest hs
  case encwr =>
    rw [runMoves_cons, moved_issue rfl (exec_encwr s)]
    exact sent_handOver_buildWriteRequest hs

/-! ### The block's part of an attempt (R104, R106) -/

/-- A read request of the session built and sent (R104). -/
def State.sendReadRequest (p : LinkParams) (node : Byte) (reg : BitVec 7) (s : State) : State :=
  (buildReadRequest { s with sync := p.reqSync, addr := node, reg := reg }).handOver

/-- A write request of the session built and sent (R106). -/
def State.sendWriteRequest (p : LinkParams) (node : Byte) (reg : BitVec 7) (value : Word) (s : State) : State :=
  (buildWriteRequest { s with sync := p.reqSync, addr := node, reg := reg, wval := value }).handOver

/-- The bytes the host expects of a response, in SYNC, ADDR and EREG (R80). -/
def State.expect (p : LinkParams) (reg : BitVec 7) (s : State) : State :=
  { s with sync := p.respSync, addr := p.respAddr, ereg := expectedRegByte p reg }

/-- A reply in IBUF, or only its ILEN where IBUF cannot hold it (R103; log entry 11). -/
def State.present (reply : List Byte) (s : State) : State :=
  if reply.length ≤ Config.ibufCap then s.loadInput reply else { s with ilen := 31 }

theorem runMoves_presentReply (reply : List Byte) (s : State) : runMoves (presentReply reply) s = s.present reply := by
  unfold presentReply State.present
  split
  · next hlen => exact moved_of_next (hostMove_writeBytes hlen s)
  · rfl

theorem runMoves_decodeMoves (p : LinkParams) (reg : BitVec 7) (reply : List Byte) (s : State) :
    runMoves (decodeMoves p reg reply) s = checkResponse ((s.expect p reg).present reply) := by
  rw [decodeMoves, runMoves_append, runMoves_append, runMoves_presentReply]
  exact moved_issue rfl (exec_decrd _)

theorem runMoves_psEncrd_send (p : LinkParams) (node : Byte) (reg : BitVec 7) (s : State) :
    runMoves (psEncrd p.reqSync node reg ++ [.send]) s = s.sendReadRequest p node reg :=
  congrArg State.handOver (moved_issue (i := .encrd) rfl (exec_encrd _))

theorem runMoves_psEncwr_send (p : LinkParams) (node : Byte) (reg : BitVec 7) (value : Word) (s : State) :
    runMoves (psEncwr p.reqSync node reg value ++ [.send]) s = s.sendWriteRequest p node reg value :=
  congrArg State.handOver (moved_issue (i := .encwr) rfl (exec_encwr _))

/-- A reply whose length is not that of a response does not decode (R76). -/
theorem decodeResponse_of_length_ne {data : List Byte} (h : data.length ≠ Config.wrWire) (es ea erb : Byte) :
    decodeResponse data es ea erb = none := if_neg h

/-- DECRD finds in IBUF what the decoder makes of the reply, however long the reply is. -/
theorem State.responseValue_present {s : State} (hs : s.ibuf.wf = true) (reply : List Byte) :
    (s.present reply).responseValue = decodeResponse reply s.sync s.addr s.ereg := by
  by_cases hten : reply.length = Config.wrWire
  · rw [State.present, if_pos (hten.trans_le (by decide)), State.responseValue_loadInput hs hten]
  · rw [decodeResponse_of_length_ne hten, State.responseValue, State.present]
    refine if_neg ?_
    split
    · next hle =>
      have hlt : reply.length < 2 ^ 5 := hle.trans_lt (by decide)
      rwa [State.loadInput_ilen, BitVec.toNat_ofNat, Nat.mod_eq_of_lt hlt]
    · exact (by decide : (31 : BitVec 5).toNat ≠ Config.wrWire)

@[simp] theorem State.present_sent (reply : List Byte) (s : State) : (s.present reply).sent = s.sent := by
  unfold State.present
  split <;> rfl

@[simp] theorem checkResponse_ibuf (s : State) : (checkResponse s).ibuf = s.ibuf := by rw [checkResponse_frame]

@[simp] theorem checkResponse_obuf (s : State) : (checkResponse s).obuf = s.obuf := by rw [checkResponse_frame]

@[simp] theorem checkResponse_sent (s : State) : (checkResponse s).sent = s.sent := by rw [checkResponse_frame]

/-- What the host reads in RVALID and RVAL after DECRD. -/
theorem checkResponse_answer (s : State) :
    (if (checkResponse s).rvalid = 1 then some (checkResponse s).rval else none) = s.responseValue := by
  rcases checkResponse_cases s with ⟨hv, h⟩ | ⟨v, hv, h⟩ <;> rw [h, hv] <;> rfl

theorem State.buffersOk.sendReadRequest {s : State} (h : s.buffersOk) (p : LinkParams) (node : Byte) (reg : BitVec 7) :
    (s.sendReadRequest p node reg).buffersOk := by
  obtain ⟨hiwf, hicap, howf, hocap⟩ := h
  exact ⟨hiwf, hicap, State.putResult_ok (s := { s with crc := _ }) howf hocap (length_frame4_le _ _ _)⟩

theorem State.buffersOk.sendWriteRequest {s : State} (h : s.buffersOk) (p : LinkParams) (node : Byte)
    (reg : BitVec 7) (value : Word) : (s.sendWriteRequest p node reg value).buffersOk := by
  obtain ⟨hiwf, hicap, howf, hocap⟩ := h
  exact ⟨hiwf, hicap, State.putResult_ok (s := { s with crc := _ }) howf hocap (length_frame8_le _ _ _ _)⟩

theorem State.buffersOk.expect {s : State} (h : s.buffersOk) (p : LinkParams) (reg : BitVec 7) :
    (s.expect p reg).buffersOk := h

theorem State.buffersOk.present {s : State} (h : s.buffersOk) (reply : List Byte) : (s.present reply).buffersOk := by
  obtain ⟨hiwf, hicap, hobuf⟩ := h
  unfold State.present
  split
  · next hlen =>
    obtain ⟨hwf, hcap⟩ := State.loadInput_ok hiwf hicap hlen
    exact ⟨hwf, hcap, hobuf⟩
  · exact ⟨hiwf, hicap, hobuf⟩

theorem State.buffersOk.checkResponse {s : State} (h : s.buffersOk) : (checkResponse s).buffersOk := by
  simpa only [State.buffersOk, checkResponse_ibuf, checkResponse_obuf] using h

/-! ### Exchanges -/

/-- From z to z' the block sends these frames and keeps its buffers sound, these replies are left, and the rest of the
session is as it was. -/
def Session.Exchanged (z : Session) (frames replies : List (List Byte)) (z' : Session) : Prop :=
  ∃ b : State, b.buffersOk ∧ z' = { z with block := b, replies := replies } ∧ b.sent = z.block.sent ++ frames

theorem Session.Exchanged.refl {z : Session} (h : z.block.buffersOk) : z.Exchanged [] z.replies z :=
  ⟨z.block, h, rfl, (List.append_nil _).symm⟩

theorem Session.Exchanged.trans {z z' z'' : Session} {fs fs' rs rs' : List (List Byte)} (h : z.Exchanged fs rs z')
    (h' : z'.Exchanged fs' rs' z'') : z.Exchanged (fs ++ fs') rs' z'' := by
  obtain ⟨b, -, rfl, hb⟩ := h
  obtain ⟨b', hok, rfl, hb'⟩ := h'
  exact ⟨b', hok, rfl, by rw [hb', hb, List.append_assoc]⟩

section
variable {z z' : Session} {fs rs : List (List Byte)} (h : z.Exchanged fs rs z')
include h

theorem Session.Exchanged.buffersOk : z'.block.buffersOk := by
  obtain ⟨b, hok, rfl, -⟩ := h
  exact hok

theorem Session.Exchanged.node_eq : z'.node = z.node := by
  obtain ⟨b, -, rfl, -⟩ := h
  rfl

theorem Session.Exchanged.debug_eq : z'.debug = z.debug := by
  obtain ⟨b, -, rfl, -⟩ := h
  rfl

theorem Session.Exchanged.replies_eq : z'.replies = rs := by
  obtain ⟨b, -, rfl, -⟩ := h
  rfl

end

/-! ### Reading a register (R104, R105) -/

/-- The block in an attempt of a read when the reply has come and DECRD is still to be issued. -/
def Session.awaitingDecrd (p : LinkParams) (reg : BitVec 7) (z : Session) : State :=
  ((z.block.sendReadRequest p z.node reg).expect p reg).present (z.replies.headD [])

theorem runMoves_attempt (p : LinkParams) (reg : BitVec 7) (z : Session) :
    runMoves (psEncrd p.reqSync z.node reg ++ .send :: decodeMoves p reg (z.replies.headD [])) z.block =
      checkResponse (z.awaitingDecrd p reg) := by
  rw [List.append_cons, runMoves_append, runMoves_psEncrd_send, runMoves_decodeMoves, Session.awaitingDecrd]

theorem readAttempt_eq (p : LinkParams) (reg : BitVec 7) (z : Session) :
    readAttempt p reg z =
      ({ z with block := checkResponse (z.awaitingDecrd p reg), replies := z.replies.tail },
        (z.awaitingDecrd p reg).responseValue) := by
  rw [readAttempt, runMoves_attempt, checkResponse_answer]

theorem Session.responseValue_awaitingDecrd (p : LinkParams) (reg : BitVec 7) {z : Session}
    (hz : z.block.ibuf.wf = true) : (z.awaitingDecrd p reg).responseValue = answer p reg z 0 := by
  have hvalue := State.responseValue_present (s := (z.block.sendReadRequest p z.node reg).expect p reg) hz
  rw [Session.awaitingDecrd, hvalue, answer, reply, List.headD_eq_getD]
  rfl

theorem Session.sent_awaitingDecrd (p : LinkParams) (reg : BitVec 7) (z : Session) :
    (z.awaitingDecrd p reg).sent = (z.block.sendReadRequest p z.node reg).sent :=
  State.present_sent _ _

theorem readAttempt_exchanged (p : LinkParams) (reg : BitVec 7) {z : Session} (hz : z.block.buffersOk) :
    ∃ z', readAttempt p reg z = (z', answer p reg z 0) ∧
      z.Exchanged [readFrame p z.node reg] z.replies.tail z' := by
  have ⟨hiwf, _, howf, _⟩ := hz
  have hvalue := Session.responseValue_awaitingDecrd p reg hiwf
  have hok : (z.awaitingDecrd p reg).buffersOk := ((hz.sendReadRequest p z.node reg).expect p reg).present _
  refine ⟨_, by rw [readAttempt_eq, hvalue], _, hok.checkResponse, rfl, ?_⟩
  rw [checkResponse_sent, Session.sent_awaitingDecrd]
  exact sent_handOver_buildReadRequest (s := { z.block with sync := _, addr := _, reg := _ }) howf

theorem readLoop_of_some {p : LinkParams} {reg : BitVec 7} {z z' : Session} {v : Word}
    (h : readAttempt p reg z = (z', some v)) (n : Nat) : readLoop p reg (n + 1) z = (z', .ok v) := by
  rw [readLoop, h]

theorem readLoop_of_none {p : LinkParams} {reg : BitVec 7} {z z' : Session}
    (h : readAttempt p reg z = (z', none)) (n : Nat) : readLoop p reg (n + 1) z = readLoop p reg n z' := by
  rw [readLoop, h]

/-- With k replies used up, those left are numbered from k. -/
theorem answer_of_drop {z z' : Session} {k : Nat} (h : z'.replies = z.replies.drop k) (p : LinkParams)
    (reg : BitVec 7) (j : Nat) : answer p reg z' j = answer p reg z (k + j) := by
  rw [answer, answer, reply, reply, h, List.getD_eq_getElem?_getD, List.getD_eq_getElem?_getD, List.getElem?_drop]

/-- Attempts that get no answer: k of them use up k replies and k of the budget. -/
theorem readLoop_skip (p : LinkParams) (reg : BitVec 7) (n : Nat) {k : Nat} {z : Session} (hz : z.block.buffersOk)
    (hnone : ∀ j, j < k → answer p reg z j = none) :
    ∃ z', readLoop p reg (k + n) z = readLoop p reg n z' ∧
      z.Exchanged (List.replicate k (readFrame p z.node reg)) (z.replies.drop k) z' := by
  induction k generalizing z with
  | zero => exact ⟨z, by rw [Nat.zero_add], Session.Exchanged.refl hz⟩
  | succ k ih =>
    obtain ⟨y, hread, hzy⟩ := readAttempt_exchanged p reg hz
    rw [hnone 0 k.succ_pos] at hread
    have htail : y.replies = z.replies.drop 1 := hzy.replies_eq.trans List.drop_one.symm
    obtain ⟨z', hloop, hyz⟩ := ih hzy.buffersOk fun j hj =>
      (answer_of_drop htail p reg j).trans (hnone (1 + j) (by omega))
    rw [hzy.node_eq, hzy.replies_eq, List.drop_tail] at hyz
    refine ⟨z', ?_, hzy.trans hyz⟩
    rw [Nat.succ_add, readLoop_of_none hread, hloop]

theorem debug_of_readAttempt {p : LinkParams} {reg : BitVec 7} {z z' : Session} {o : Option Word}
    (h : readAttempt p reg z = (z', o)) : z'.debug = z.debug := by
  cases h
  rfl

theorem readLoop_debug (p : LinkParams) (reg : BitVec 7) (n : Nat) (z : Session) :
    (readLoop p reg n z).1.debug = z.debug := by
  induction n generalizing z with
  | zero => rfl
  | succ n ih =>
    rcases hread : readAttempt p reg z with ⟨z', _ | v⟩
    · rw [readLoop_of_none hread, ih, debug_of_readAttempt hread]
    · rw [readLoop_of_some hread, debug_of_readAttempt hread]

theorem readRegister_debug (p : LinkParams) (reg : BitVec 7) (z : Session) :
    (readRegister p reg z).1.debug = z.debug := by
  unfold readRegister
  split
  · rfl
  · exact readLoop_debug p reg _ z

theorem readRegister_of_live {z : Session} (h : z.debug = false) (p : LinkParams) (reg : BitVec 7) :
    readRegister p reg z = readLoop p reg Config.retryBudget z := by
  rw [readRegister, h]
  rfl

theorem readRegister_answered {p : LinkParams} {reg : BitVec 7} {z : Session} {k : Nat} {v : Word}
    (hdebug : z.debug = false) (hz : z.block.buffersOk) (hk : k < 5)
    (hnone : ∀ j, j < k → answer p reg z j = none) (hsome : answer p reg z k = some v) :
    ∃ z', readRegister p reg z = (z', .ok v) ∧
      z.Exchanged (List.replicate (k + 1) (readFrame p z.node reg)) (z.replies.drop (k + 1)) z' := by
  obtain ⟨n, hn⟩ : ∃ n, Config.retryBudget = k + (n + 1) := Nat.exists_eq_add_of_lt hk
  obtain ⟨y, hloop, hzy⟩ := readLoop_skip p reg (n + 1) hz hnone
  obtain ⟨z', hread, hyz⟩ := readAttempt_exchanged p reg hzy.buffersOk
  rw [(answer_of_drop hzy.replies_eq p reg 0).trans hsome] at hread
  rw [hzy.node_eq, hzy.replies_eq, List.tail_drop] at hyz
  refine ⟨z', ?_, ?_⟩
  · rw [readRegister_of_live hdebug, hn, hloop, readLoop_of_some hread]
  · rw [List.replicate_succ']
    exact hzy.trans hyz

theorem readRegister_unanswered {p : LinkParams} {reg : BitVec 7} {z : Session} (hdebug : z.debug = false)
    (hz : z.block.buffersOk) (hnone : ∀ j, j < 5 → answer p reg z j = none) :
    ∃ z', readRegister p reg z = (z', .error ⟨reg, 5, z.node⟩) ∧
      z.Exchanged (List.replicate 5 (readFrame p z.node reg)) (z.replies.drop 5) z' := by
  obtain ⟨z', hloop, hzz⟩ := readLoop_skip p reg 0 hz hnone
  refine ⟨z', ?_, hzz⟩
  rw [readRegister_of_live hdebug, ← hzz.node_eq]
  exact hloop

/-- Settles O47: the attempts before the first answer are exchanges of one request each, and so is the one answered. -/
theorem readReturnsTheFirstAnswerOfFive : Obligations.ReadReturnsTheFirstAnswerOfFive := by
  refine fun p reg z hdebug hz => ⟨fun k v hk hnone hsome => ?_, fun hnone => ?_⟩
  · obtain ⟨z', hread, b, hb, rfl, hsent⟩ := readRegister_answered hdebug hz hk hnone hsome
    exact ⟨b, hb, hread, hsent⟩
  · obtain ⟨z', hread, b, hb, rfl, hsent⟩ := readRegister_unanswered hdebug hz hnone
    exact ⟨b, hb, hread, hsent⟩

/-! ### Writing a register (R106, R107) -/

theorem sendWrite_eq (p : LinkParams) (reg : BitVec 7) (value : Word) (z : Session) :
    sendWrite p reg value z = { z with block := z.block.sendWriteRequest p z.node reg value } := by
  rw [sendWrite, runMoves_psEncwr_send]

theorem sendWrite_exchanged (p : LinkParams) (reg : BitVec 7) (value : Word) {z : Session} (hz : z.block.buffersOk) :
    z.Exchanged [writeFrame p z.node reg value] z.replies (sendWrite p reg value z) := by
  have ⟨_, _, howf, _⟩ := hz
  exact ⟨_, hz.sendWriteRequest p z.node reg value, sendWrite_eq p reg value z,
    sent_handOver_buildWriteRequest (s := { z.block with sync := _, addr := _, reg := _, wval := _ }) howf⟩

section
variable {p : LinkParams} {reg : BitVec 7} {value : Word} {z z' : Session} {c : Byte}

theorem writeLoop_of_error {f : CommunicationFailure}
    (h : readRegister p p.ifcntAddr (sendWrite p reg value z) = (z', .error f)) (n : Nat) :
    writeLoop p reg value c (n + 1) z = (z', .error f) := by
  rw [writeLoop, h]

theorem writeLoop_of_confirmed {w : Word} (h : readRegister p p.ifcntAddr (sendWrite p reg value z) = (z', .ok w))
    (hw : w.setWidth 8 = c + 1) (n : Nat) :
    writeLoop p reg value c (n + 1) z = ({ z' with ifcnt := some (c + 1) }, .ok ()) := by
  simp only [writeLoop, h, hw, if_true]

theorem writeLoop_of_missed {w : Word} (h : readRegister p p.ifcntAddr (sendWrite p reg value z) = (z', .ok w))
    (hw : w.setWidth 8 ≠ c + 1) (n : Nat) :
    writeLoop p reg value c (n + 1) z = writeLoop p reg value c n z' := by
  simp only [writeLoop, h, if_neg hw]

theorem writeRegister_of_known (hdebug : z.debug = false) (hc : z.ifcnt = some c) :
    writeRegister p reg value z = writeLoop p reg value c Config.retryBudget z := by
  simp [writeRegister, hdebug, hc]

theorem writeRegister_of_unknown_ok (hdebug : z.debug = false) (hc : z.ifcnt = none) {w : Word}
    (h : readRegister p p.ifcntAddr z = (z', .ok w)) :
    writeRegister p reg value z =
      writeLoop p reg value (w.setWidth 8) Config.retryBudget { z' with ifcnt := some (w.setWidth 8) } := by
  simp [writeRegister, hdebug, hc, h]

theorem writeRegister_of_unknown_error (hdebug : z.debug = false) (hc : z.ifcnt = none) {f : CommunicationFailure}
    (h : readRegister p p.ifcntAddr z = (z', .error f)) : writeRegister p reg value z = (z', .error f) := by
  simp [writeRegister, hdebug, hc, h]

end

/-- A re-read that is answered in time returns the counter and leaves the replies after its own. -/
theorem readCounter_answered {p : LinkParams} {z : Session} {g : List (List Byte) × Word} {rest : List (List Byte)}
    (hdebug : z.debug = false) (hz : z.block.buffersOk) (hreplies : z.replies = counterReplies p g ++ rest)
    (hg : answeredInTime p g) :
    ∃ z', readRegister p p.ifcntAddr z = (z', .ok g.2) ∧
      z.Exchanged (List.replicate (g.1.length + 1) (readFrame p z.node p.ifcntAddr)) rest z' := by
  obtain ⟨hlen, hdamaged⟩ := hg
  rw [counterReplies] at hreplies
  have hnone : ∀ j, j < g.1.length → answer p p.ifcntAddr z j = none := fun j hj => by
    rw [answer, reply, hreplies, List.append_assoc, List.getD_append _ _ _ _ hj, List.getD_eq_getElem _ _ hj]
    exact hdamaged _ (List.getElem_mem hj)
  have hsome : answer p p.ifcntAddr z g.1.length = some g.2 := by
    rw [answer, reply, hreplies, List.append_assoc, List.getD_append_right _ _ _ _ le_rfl, Nat.sub_self]
    exact decodeResponse_frame8 _ _ _ _
  have hdrop : z.replies.drop (g.1.length + 1) = rest := by
    rw [hreplies]
    exact List.drop_left' (by simp)
  have hread := readRegister_answered hdebug hz (Nat.lt_succ_of_le hlen) hnone hsome
  rwa [hdrop] at hread

/-- One attempt of a write whose re-read is answered in time. -/
theorem writeAttempt_answered {p : LinkParams} (reg : BitVec 7) (value : Word) {z : Session}
    {g : List (List Byte) × Word} {rest : List (List Byte)} (hdebug : z.debug = false) (hz : z.block.buffersOk)
    (hreplies : z.replies = counterReplies p g ++ rest) (hg : answeredInTime p g) :
    ∃ z', readRegister p p.ifcntAddr (sendWrite p reg value z) = (z', .ok g.2) ∧
      z.Exchanged (attemptFrames p z.node reg value g) rest z' := by
  have hsend := sendWrite_exchanged p reg value hz
  obtain ⟨z', hread, hzz⟩ := readCounter_answered (hsend.debug_eq.trans hdebug) hsend.buffersOk
    (hsend.replies_eq.trans hreplies) hg
  rw [hsend.node_eq] at hzz
  exact ⟨z', hread, hsend.trans hzz⟩

/-- One attempt of a write whose re-read gets no answer. -/
theorem writeAttempt_unanswered {p : LinkParams} (reg : BitVec 7) (value : Word) {z : Session}
    (hdebug : z.debug = false) (hz : z.block.buffersOk) (hnone : ∀ j, j < 5 → answer p p.ifcntAddr z j = none) :
    ∃ z', readRegister p p.ifcntAddr (sendWrite p reg value z) = (z', .error ⟨p.ifcntAddr, 5, z.node⟩) ∧
      z.Exchanged (writeFrame p z.node reg value :: List.replicate 5 (readFrame p z.node p.ifcntAddr))
        (z.replies.drop 5) z' := by
  have hsend := sendWrite_exchanged p reg value hz
  obtain ⟨z', hread, hzz⟩ := readRegister_unanswered (p := p) (reg := p.ifcntAddr) (hsend.debug_eq.trans hdebug)
    hsend.buffersOk hnone
  rw [hsend.node_eq] at hread hzz
  rw [hsend.replies_eq] at hzz
  exact ⟨z', hread, hsend.trans hzz⟩

/-- Attempts whose re-reads show other counters: each uses up its replies and one of the budget. -/
theorem writeLoop_skip {p : LinkParams} (reg : BitVec 7) (value : Word) {c : Byte} (n : Nat)
    {gs : List (List (List Byte) × Word)} {rest : List (List Byte)} {z : Session} (hdebug : z.debug = false)
    (hz : z.block.buffersOk) (hreplies : z.replies = gs.flatMap (counterReplies p) ++ rest)
    (htime : ∀ g ∈ gs, answeredInTime p g) (hmiss : ∀ g ∈ gs, g.2.setWidth 8 ≠ c + 1) :
    ∃ z', writeLoop p reg value c (gs.length + n) z = writeLoop p reg value c n z' ∧
      z.Exchanged (gs.flatMap (attemptFrames p z.node reg value)) rest z' := by
  induction gs generalizing z with
  | nil =>
    have hrest : z.replies = rest := hreplies
    exact ⟨z, by rw [List.length_nil, Nat.zero_add], hrest ▸ Session.Exchanged.refl hz⟩
  | cons g gs ih =>
    rw [List.forall_mem_cons] at htime hmiss
    obtain ⟨hg, hgs⟩ := htime
    obtain ⟨hgmiss, hgsmiss⟩ := hmiss
    rw [List.flatMap_cons, List.append_assoc] at hreplies
    obtain ⟨y, hread, hzy⟩ := writeAttempt_answered reg value hdebug hz hreplies hg
    obtain ⟨z', hloop, hyz⟩ := ih (hzy.debug_eq.trans hdebug) hzy.buffersOk hzy.replies_eq hgs hgsmiss
    rw [hzy.node_eq] at hyz
    refine ⟨z', ?_, hzy.trans hyz⟩
    rw [List.length_cons, Nat.succ_add, writeLoop_of_missed hread hgmiss, hloop]

/-- Settles O48: the attempts before the confirming one are skipped, and five skipped attempts leave none. -/
theorem writeIsConfirmedByTheCounter : Obligations.WriteIsConfirmedByTheCounter := by
  intro p reg value z c gs rest hdebug hz hc hreplies htime
  rw [writeRegister_of_known hdebug hc]
  refine ⟨fun us u hgs hlen hmiss hhit => ?confirmed, fun hlen hmiss => ?failed⟩
  case confirmed =>
    subst hgs
    rw [List.forall_mem_append, List.forall_mem_singleton] at htime
    obtain ⟨hus, hu⟩ := htime
    rw [List.flatMap_append, List.flatMap_singleton, List.append_assoc] at hreplies
    rw [List.length_append] at hlen
    obtain ⟨n, hn⟩ : ∃ n, Config.retryBudget = us.length + (n + 1) := Nat.exists_eq_add_of_lt hlen
    obtain ⟨y, hloop, hzy⟩ := writeLoop_skip reg value (n + 1) hdebug hz hreplies hus hmiss
    obtain ⟨z', hread, hyz⟩ :=
      writeAttempt_answered reg value (hzy.debug_eq.trans hdebug) hzy.buffersOk hzy.replies_eq hu
    rw [hzy.node_eq] at hyz
    obtain ⟨b, hb, rfl, hsent⟩ := hzy.trans hyz
    refine ⟨b, hb, ?_, ?_⟩
    · rw [hn, hloop, writeLoop_of_confirmed hread hhit]
    · rw [hsent, List.flatMap_append, List.flatMap_singleton]
  case failed =>
    obtain ⟨z', hloop, b, hb, rfl, hsent⟩ := writeLoop_skip reg value 0 hdebug hz hreplies htime hmiss
    rw [hlen] at hloop
    exact ⟨b, hb, hloop, hsent⟩

/-- Settles O55: the answered attempts are skipped, and the next one's re-read ends the loop with its own failure. -/
theorem failedCounterReadEndsTheWrite : Obligations.FailedCounterReadEndsTheWrite := by
  intro p reg value z c gs rest hdebug hz hc hreplies htime hlen hmiss hnone
  obtain ⟨n, hn⟩ : ∃ n, Config.retryBudget = gs.length + (n + 1) := Nat.exists_eq_add_of_lt hlen
  obtain ⟨y, hloop, hzy⟩ := writeLoop_skip reg value (n + 1) hdebug hz hreplies htime hmiss
  have hunanswered : ∀ j, j < 5 → answer p p.ifcntAddr y j = none := fun j hj => by
    rw [answer, reply, hzy.replies_eq, hnone j hj]
  obtain ⟨z', hread, hyz⟩ :=
    writeAttempt_unanswered reg value (hzy.debug_eq.trans hdebug) hzy.buffersOk hunanswered
  rw [hzy.node_eq] at hread hyz
  rw [hzy.replies_eq] at hyz
  obtain ⟨b, hb, rfl, hsent⟩ := hzy.trans hyz
  refine ⟨b, hb, ?_, ?_⟩
  · rw [writeRegister_of_known hdebug hc, hn, hloop, writeLoop_of_error hread]
  · rw [hsent, List.append_assoc]

/-- Settles O49: a read leaves the debug mode off, so the write with the counter known is the loop that follows it. -/
theorem unknownCounterIsReadBeforeTheFirstAttempt : Obligations.UnknownCounterIsReadBeforeTheFirstAttempt := by
  refine fun p reg value z z' hdebug hunknown => ⟨fun w hread => ?_, fun f hread => ?_⟩
  · have hdebug' : z'.debug = false := by rw [← hdebug, ← readRegister_debug p p.ifcntAddr z, hread]
    rw [writeRegister_of_unknown_ok hdebug hunknown hread]
    exact (writeRegister_of_known (z := { z' with ifcnt := some (w.setWidth 8) }) hdebug' rfl).symm
  · exact writeRegister_of_unknown_error hdebug hunknown hread

/-! ### First connection (R108, R111) -/

section
variable {p : LinkParams} {reg : BitVec 7} {value : Word} {z z' : Session}

theorem connect_of_ok (h : writeRegister p reg value z = (z', .ok ())) (abort : Bool)
    (cache : List (BitVec 7 × Word)) : connect p abort ((reg, value) :: cache) z = connect p abort cache z' := by
  rw [connect, h]

theorem connect_abort_of_error {f : CommunicationFailure} (h : writeRegister p reg value z = (z', .error f))
    (cache : List (BitVec 7 × Word)) : connect p true ((reg, value) :: cache) z = (z', [f]) := by
  simp [connect, h]

theorem connect_continue_of_error {f : CommunicationFailure} (h : writeRegister p reg value z = (z', .error f))
    (cache : List (BitVec 7 × Word)) :
    connect p false ((reg, value) :: cache) z =
      ((connect p false cache z').1, f :: (connect p false cache z').2) := by
  simp [connect, h]

end

/-- With `abort`, what follows in the cache is pushed only when no push before it failed. -/
theorem connect_abort_append (p : LinkParams) (front back : List (BitVec 7 × Word)) (z : Session) :
    connect p true (front ++ back) z =
      if (connect p true front z).2 = [] then connect p true back (connect p true front z).1
      else connect p true front z := by
  induction front generalizing z with
  | nil => rfl
  | cons push front ih =>
    rw [List.cons_append]
    rcases hwrite : writeRegister p push.1 push.2 z with ⟨z', f | _⟩
    · rw [connect_abort_of_error hwrite, connect_abort_of_error hwrite]
      rfl
    · rw [connect_of_ok hwrite, connect_of_ok hwrite, ih]

/-- Without `abort`, every push is made and the failures are reported in order. -/
theorem connect_continue_append (p : LinkParams) (front back : List (BitVec 7 × Word)) (z : Session) :
    connect p false (front ++ back) z =
      ((connect p false back (connect p false front z).1).1,
        (connect p false front z).2 ++ (connect p false back (connect p false front z).1).2) := by
  induction front generalizing z with
  | nil => rfl
  | cons push front ih =>
    rw [List.cons_append]
    rcases hwrite : writeRegister p push.1 push.2 z with ⟨z', f | _⟩
    · rw [connect_continue_of_error hwrite, connect_continue_of_error hwrite, ih]
      rfl
    · rw [connect_of_ok hwrite, connect_of_ok hwrite, ih]

/-- Settles O50: one push is the head of the list, and a list splits where its pushes do. -/
theorem connectPushesTheCacheInOrder : Obligations.ConnectPushesTheCacheInOrder := by
  refine fun p abort reg value front back z z' => ⟨rfl, fun hok => connect_of_ok hok abort [], fun f herror => ?_,
    fun hnone => ?_, fun hsome => ?_, connect_continue_append p front back z⟩
  · cases abort with
    | false => exact connect_continue_of_error herror []
    | true => exact connect_abort_of_error herror []
  · rw [connect_abort_append, if_pos hnone]
  · rw [connect_abort_append, if_neg hsome]

/-! ### Debug mode (R109) -/

theorem writeRegister_of_debug {z : Session} (h : z.debug = true) (p : LinkParams) (reg : BitVec 7) (value : Word) :
    writeRegister p reg value z = (z, .ok ()) := if_pos h

theorem connect_of_debug {z : Session} (h : z.debug = true) (p : LinkParams) (abort : Bool)
    (cache : List (BitVec 7 × Word)) : connect p abort cache z = (z, []) := by
  induction cache with
  | nil => rfl
  | cons push cache ih => rw [connect_of_ok (writeRegister_of_debug h p push.1 push.2), ih]

/-- Settles O52: both procedures test the debug mode first, and each push of a connection is one of them. -/
theorem debugModeTouchesNothing : Obligations.DebugModeTouchesNothing :=
  fun p reg value abort cache _ h =>
    ⟨if_pos h, writeRegister_of_debug h p reg value, connect_of_debug h p abort cache⟩

/-! ### How much a session sends (R112) -/

/-- An attempt sends one sequence, whatever state the buffers are in. -/
theorem length_sent_of_readAttempt {p : LinkParams} {reg : BitVec 7} {z z' : Session} {o : Option Word}
    (h : readAttempt p reg z = (z', o)) : z'.block.sent.length = z.block.sent.length + 1 := by
  rw [readAttempt_eq] at h
  cases h
  rw [checkResponse_sent, Session.sent_awaitingDecrd]
  exact List.length_append

theorem length_sent_sendWrite (p : LinkParams) (reg : BitVec 7) (value : Word) (z : Session) :
    (sendWrite p reg value z).block.sent.length = z.block.sent.length + 1 := by
  rw [sendWrite_eq]
  exact List.length_append

theorem length_sent_readLoop_le (p : LinkParams) (reg : BitVec 7) (n : Nat) (z : Session) :
    (readLoop p reg n z).1.block.sent.length ≤ z.block.sent.length + n := by
  induction n generalizing z with
  | zero => exact le_rfl
  | succ n ih =>
    rcases hread : readAttempt p reg z with ⟨z', _ | v⟩ <;> have hattempt := length_sent_of_readAttempt hread
    · rw [readLoop_of_none hread]
      have hrest := ih z'
      omega
    · rw [readLoop_of_some hread, hattempt]
      omega

theorem length_sent_readRegister_le (p : LinkParams) (reg : BitVec 7) (z : Session) :
    (readRegister p reg z).1.block.sent.length ≤ z.block.sent.length + 5 := by
  unfold readRegister
  split
  · exact Nat.le_add_right _ _
  · exact length_sent_readLoop_le p reg 5 z

theorem length_sent_of_readRegister {p : LinkParams} {reg : BitVec 7} {z z' : Session}
    {o : Except CommunicationFailure Word} (h : readRegister p reg z = (z', o)) :
    z'.block.sent.length ≤ z.block.sent.length + 5 := by
  have hle := length_sent_readRegister_le p reg z
  rwa [h] at hle

/-- An attempt of a write sends its request and at most five for its re-read. -/
theorem length_sent_of_writeAttempt {p : LinkParams} {reg : BitVec 7} {value : Word} {z z' : Session}
    {o : Except CommunicationFailure Word} (h : readRegister p p.ifcntAddr (sendWrite p reg value z) = (z', o)) :
    z'.block.sent.length ≤ z.block.sent.length + 6 := by
  have hreread := length_sent_of_readRegister h
  rwa [length_sent_sendWrite] at hreread

theorem length_sent_writeLoop_le (p : LinkParams) (reg : BitVec 7) (value : Word) (c : Byte) (n : Nat) (z : Session) :
    (writeLoop p reg value c n z).1.block.sent.length ≤ z.block.sent.length + 6 * n := by
  induction n generalizing z with
  | zero => exact le_rfl
  | succ n ih =>
    rcases hread : readRegister p p.ifcntAddr (sendWrite p reg value z) with ⟨z', f | w⟩ <;>
      have hattempt := length_sent_of_writeAttempt hread
    · rw [writeLoop_of_error hread]
      exact hattempt.trans (by omega)
    · by_cases hw : w.setWidth 8 = c + 1
      · rw [writeLoop_of_confirmed hread hw]
        exact hattempt.trans (by omega)
      · rw [writeLoop_of_missed hread hw]
        have hrest := ih z'
        omega

/-- A write sends at most six sequences for each of its five attempts, and five for the read of an unknown counter. -/
theorem length_sent_writeRegister_le (p : LinkParams) (reg : BitVec 7) (value : Word) (z : Session) :
    (writeRegister p reg value z).1.block.sent.length ≤ z.block.sent.length + 35 := by
  by_cases hdebug : z.debug = true
  · rw [writeRegister_of_debug hdebug]
    exact Nat.le_add_right _ _
  rw [Bool.not_eq_true] at hdebug
  cases hc : z.ifcnt with
  | some c =>
    rw [writeRegister_of_known hdebug hc]
    exact (length_sent_writeLoop_le p reg value c 5 z).trans (by omega)
  | none =>
    rcases hread : readRegister p p.ifcntAddr z with ⟨z', f | w⟩ <;>
      have hcounter := length_sent_of_readRegister hread
    · rw [writeRegister_of_unknown_error hdebug hc hread]
      exact hcounter.trans (by omega)
    · rw [writeRegister_of_unknown_ok hdebug hc hread]
      refine (length_sent_writeLoop_le p reg value _ 5 _).trans ?_
      dsimp only
      omega

/-- Settles O51. -/
theorem sessionsSendBoundedlyManyFrames : Obligations.SessionsSendBoundedlyManyFrames :=
  fun p reg value z => ⟨length_sent_readRegister_le p reg z, length_sent_writeRegister_le p reg value z⟩

end Sys2Proof.Machine

/-! SUPPORT. The proof of the obligation about reset (spec/70_reset_and_hazards.md). -/

namespace Sys2Proof.Machine

/-- Settles O2: the move is taken off the list, and reset keeps only the host's own two fields. -/
theorem resetMoveClearsTheBlock : Obligations.ResetMoveClearsTheBlock := by
  intro s ms hpending
  rw [step_move hpending, hostMove, resetBlock]

end Sys2Proof.Machine
